-- ==== Sys2Proof/Word.lean ====
section
/-! DEFINITION. The word types of OUIB: the 32-bit word of a command port and the byte of a CAN payload. -/

namespace Sys2Proof

/-- A 32-bit word of a command port: a command word or a side-band word (30_encoding.md R110, R119, R120). -/
abbrev Word := BitVec 32

/-- A payload byte `D[i]` of a CAN frame (20_memory.md R81). -/
abbrev Byte := BitVec 8

/-- A 16-bit half word: `IMM16`, a telemetry value, a gauge position (00_scope.md R7). -/
abbrev Half := BitVec 16

end Sys2Proof
end

