-- ==== Sys2Proof/Syntax.lean ====
section
/-! DEFINITION. The commands of OUIB: the operand records, the opcodes and `Instr`, one constructor for each row of
spec/opcode_table.json, in the table's order. -/

namespace Sys2Proof

/-- The two command ports and the two execution contexts they carry (00_scope.md R12, 60_exceptions.md R331). -/
inductive Port where
  | main
  | irq
  deriving DecidableEq, Repr

/-- A FRAME record, the four side-band words FW0..FW3 (30_encoding.md R120). Any four words are a FRAME record;
whether they are well-formed is the command's own check (R121). The fields are read in Machine/Operands.lean. -/
structure Frame where
  fw0 : Word
  fw1 : Word
  fw2 : Word
  fw3 : Word
  deriving DecidableEq, Repr

/-- The zero frame (30_encoding.md R120). -/
def Frame.zero : Frame := ⟨0, 0, 0, 0⟩

/-- A FILTER entry, the two side-band words EW0 and EW1 (30_encoding.md R122). -/
structure FilterEntry where
  ew0 : Word
  ew1 : Word
  deriving DecidableEq, Repr

/-- The 24 opcodes, in the order of the rows of 30_encoding.md R115. -/
inductive Opcode where
  | fifoPop | fifoEmpty | fifoFull | fifoFlush | fifoCount
  | canConfig | canDispatch | canTransmit | errDrain | telemRead
  | gaugeZero | gaugeSettgt | gaugeStep | gaugeTrack | gaugeRead
  | clkInit | clkRead | irqEnable | irqDisable
  | fifoPush | canRx | canTxdone | canBuserr | clkTick
  deriving DecidableEq, Repr

/-- A command with its operands: the fields of the command word that its row uses (30_encoding.md R112, R113) and
its side-band records (R119 to R123). -/
inductive Instr where
  | fifoPop
  | fifoEmpty
  | fifoFull
  | fifoFlush
  | fifoCount
  /-- K is the number of entries. -/
  | canConfig (entries : List FilterEntry)
  | canDispatch (f : Frame)
  | canTransmit (f : Frame)
  | errDrain
  | telemRead (sig : Half)
  | gaugeZero (g : BitVec 4)
  /-- `p` is IMM16, the signed percent. -/
  | gaugeSettgt (g : BitVec 4) (p : Half)
  | gaugeStep (g : BitVec 4)
  | gaugeTrack (g : BitVec 4)
  | gaugeRead (g : BitVec 4)
  /-- `ok` is the OK bit: the timer started. -/
  | clkInit (ok : Bool)
  | clkRead
  | irqEnable
  | irqDisable
  | fifoPush (f : Frame)
  | canRx (f : Frame)
  | canTxdone (slot : BitVec 5)
  | canBuserr (code : Word)
  | clkTick
  deriving DecidableEq, Repr

/-- The row of the opcode table a command is an instance of. -/
def Instr.opcode : Instr → Opcode
  | .fifoPop => .fifoPop
  | .fifoEmpty => .fifoEmpty
  | .fifoFull => .fifoFull
  | .fifoFlush => .fifoFlush
  | .fifoCount => .fifoCount
  | .canConfig _ => .canConfig
  | .canDispatch _ => .canDispatch
  | .canTransmit _ => .canTransmit
  | .errDrain => .errDrain
  | .telemRead _ => .telemRead
  | .gaugeZero _ => .gaugeZero
  | .gaugeSettgt _ _ => .gaugeSettgt
  | .gaugeStep _ => .gaugeStep
  | .gaugeTrack _ => .gaugeTrack
  | .gaugeRead _ => .gaugeRead
  | .clkInit _ => .clkInit
  | .clkRead => .clkRead
  | .irqEnable => .irqEnable
  | .irqDisable => .irqDisable
  | .fifoPush _ => .fifoPush
  | .canRx _ => .canRx
  | .canTxdone _ => .canTxdone
  | .canBuserr _ => .canBuserr
  | .clkTick => .clkTick

end Sys2Proof
end

