-- ==== Sys2Proof/WellFormed.lean ====
section
/-! DEFINITION. The commands that an encoding exists for. Every operand but the filter list of CAN.CONFIG has exactly
the width of its field, so the one check is that K fits IMM16 (30_encoding.md R113). -/

namespace Sys2Proof

/-- `i` has an encoding: the filter count K of CAN.CONFIG fits the 16 bits of IMM16 (30_encoding.md R113, R119). -/
def Instr.wellFormed : Instr → Bool
  | .canConfig entries => decide (entries.length < 65536)
  | .fifoPop | .fifoEmpty | .fifoFull | .fifoFlush | .fifoCount | .errDrain | .clkRead | .irqEnable | .irqDisable
  | .clkTick => true
  | .canDispatch _ | .canTransmit _ | .fifoPush _ | .canRx _ => true
  | .telemRead _ | .clkInit _ | .canTxdone _ | .canBuserr _ => true
  | .gaugeZero _ | .gaugeStep _ | .gaugeTrack _ | .gaugeRead _ | .gaugeSettgt _ _ => true

end Sys2Proof
end

