-- ==== Sys2Proof/Decode.lean ====
section
/-! DEFINITION. The command encoding of OUIB (30_encoding.md): the opcode table, the decoder, total on every command
word with any side-band words, and the encoder. -/

namespace Sys2Proof

/-! ## The fields of the command word (R110) -/

/-- `OP = CMD[5:0]` (R110). -/
def cmdOp (cmd : Word) : BitVec 6 := cmd.extractLsb' 0 6

/-- `RSV0 = CMD[7:6]` (R110). -/
def cmdRsv0 (cmd : Word) : BitVec 2 := cmd.extractLsb' 6 2

/-- `G = CMD[11:8]`, the gauge index (R112). -/
def cmdG (cmd : Word) : BitVec 4 := cmd.extractLsb' 8 4

/-- `RSV1 = CMD[15:12]` (R110). -/
def cmdRsv1 (cmd : Word) : BitVec 4 := cmd.extractLsb' 12 4

/-- `IMM16 = CMD[31:16]` (R113). -/
def cmdImm (cmd : Word) : Half := cmd.extractLsb' 16 16

/-! ## The opcode map (R115) -/

/-- The OP value of each opcode (R115). -/
def Opcode.code : Opcode → BitVec 6
  | .fifoPop => 0x01
  | .fifoEmpty => 0x02
  | .fifoFull => 0x03
  | .fifoFlush => 0x04
  | .fifoCount => 0x05
  | .canConfig => 0x08
  | .canDispatch => 0x09
  | .canTransmit => 0x0A
  | .errDrain => 0x0B
  | .telemRead => 0x0C
  | .gaugeZero => 0x10
  | .gaugeSettgt => 0x11
  | .gaugeStep => 0x12
  | .gaugeTrack => 0x13
  | .gaugeRead => 0x14
  | .clkInit => 0x18
  | .clkRead => 0x19
  | .irqEnable => 0x1A
  | .irqDisable => 0x1B
  | .fifoPush => 0x20
  | .canRx => 0x21
  | .canTxdone => 0x22
  | .canBuserr => 0x23
  | .clkTick => 0x24

/-- The context named by an OP field: bit 5 set means IRQ (R111). -/
def opContext (op : BitVec 6) : Port := if op.getLsbD 5 then .irq else .main

/-- The context a command belongs to (R111, 60_exceptions.md R331). -/
def Opcode.context (op : Opcode) : Port := opContext op.code

/-- One row of the opcode map: the command word is this command iff `CMD & mask = pattern` (R115). -/
structure Row where
  op : Opcode
  pattern : Word
  mask : Word
  deriving DecidableEq, Repr

/-- The opcode map of R115, row by row. -/
def rows : List Row :=
  [ ⟨.fifoPop, 0x00000001, 0xFFFFFFFF⟩,
    ⟨.fifoEmpty, 0x00000002, 0xFFFFFFFF⟩,
    ⟨.fifoFull, 0x00000003, 0xFFFFFFFF⟩,
    ⟨.fifoFlush, 0x00000004, 0xFFFFFFFF⟩,
    ⟨.fifoCount, 0x00000005, 0xFFFFFFFF⟩,
    ⟨.canConfig, 0x00000008, 0x0000FFFF⟩,
    ⟨.canDispatch, 0x00000009, 0xFFFFFFFF⟩,
    ⟨.canTransmit, 0x0000000A, 0xFFFFFFFF⟩,
    ⟨.errDrain, 0x0000000B, 0xFFFFFFFF⟩,
    ⟨.telemRead, 0x0000000C, 0x0000FFFF⟩,
    ⟨.gaugeZero, 0x00000010, 0xFFFFF0FF⟩,
    ⟨.gaugeSettgt, 0x00000011, 0x0000F0FF⟩,
    ⟨.gaugeStep, 0x00000012, 0xFFFFF0FF⟩,
    ⟨.gaugeTrack, 0x00000013, 0xFFFFF0FF⟩,
    ⟨.gaugeRead, 0x00000014, 0xFFFFF0FF⟩,
    ⟨.clkInit, 0x00000018, 0xFFFEFFFF⟩,
    ⟨.clkRead, 0x00000019, 0xFFFFFFFF⟩,
    ⟨.irqEnable, 0x0000001A, 0xFFFFFFFF⟩,
    ⟨.irqDisable, 0x0000001B, 0xFFFFFFFF⟩,
    ⟨.fifoPush, 0x00000020, 0xFFFFFFFF⟩,
    ⟨.canRx, 0x00000021, 0xFFFFFFFF⟩,
    ⟨.canTxdone, 0x00000022, 0xFFE0FFFF⟩,
    ⟨.canBuserr, 0x00000023, 0xFFFFFFFF⟩,
    ⟨.clkTick, 0x00000024, 0xFFFFFFFF⟩ ]

/-- `cmd` satisfies the row's match/mask pair (R115). -/
def Row.accepts (r : Row) (cmd : Word) : Bool := cmd &&& r.mask == r.pattern

/-- The command a word names: the first row it satisfies; none for a reserved encoding (R116, R117). -/
def decodeOpcode (cmd : Word) : Option Opcode := (rows.find? (·.accepts cmd)).map Row.op

/-- How many side-band words a command takes (R119). -/
def sideBandWords (op : Opcode) (cmd : Word) : Nat :=
  match op with
  | .fifoPush | .canRx | .canDispatch | .canTransmit => 4
  | .canConfig => 2 * (cmdImm cmd).toNat
  | .canBuserr => 1
  | .fifoPop | .fifoEmpty | .fifoFull | .fifoFlush | .fifoCount | .errDrain | .telemRead => 0
  | .gaugeZero | .gaugeSettgt | .gaugeStep | .gaugeTrack | .gaugeRead => 0
  | .clkInit | .clkRead | .irqEnable | .irqDisable | .canTxdone | .clkTick => 0

/-! ## The decoder -/

/-- Why a decoder reads no command. -/
inductive DecodeError where
  /-- The command word is a reserved encoding (R117); the block raises ILLEGAL_OP. -/
  | illegalOp
  /-- The side band does not hold the number of words the command word fixes (R119). -/
  | sideBandLength
  deriving DecidableEq, Repr

/-- The side band read as FILTER entries, two words each (R122); none for an odd number of words. -/
def filterEntries : List Word → Option (List FilterEntry)
  | [] => some []
  | [_] => none
  | w0 :: w1 :: ws =>
    match filterEntries ws with
    | some es => some (⟨w0, w1⟩ :: es)
    | none => none

/-- A command without side-band words (R119). -/
def bare (side : List Word) (i : Instr) : Except DecodeError Instr :=
  match side with
  | [] => .ok i
  | _ :: _ => .error .sideBandLength

/-- A command with one FRAME record (R119, R120). -/
def withFrame (side : List Word) (i : Frame → Instr) : Except DecodeError Instr :=
  match side with
  | [w0, w1, w2, w3] => .ok (i ⟨w0, w1, w2, w3⟩)
  | _ => .error .sideBandLength

/-- A command with one CODE word (R119, R123). -/
def withCode (side : List Word) (i : Word → Instr) : Except DecodeError Instr :=
  match side with
  | [w] => .ok (i w)
  | _ => .error .sideBandLength

/-- A command with K FILTER entries, K being IMM16 (R119, R122). -/
def withFilters (k : Half) (side : List Word) (i : List FilterEntry → Instr) : Except DecodeError Instr :=
  match filterEntries side with
  | some es => if es.length = k.toNat then .ok (i es) else .error .sideBandLength
  | none => .error .sideBandLength

/-- The command of an opcode, with the operands its row takes from the command word (R112, R113) and the side band
(R119). -/
def assemble (op : Opcode) (cmd : Word) (side : List Word) : Except DecodeError Instr :=
  match op with
  | .fifoPop => bare side .fifoPop
  | .fifoEmpty => bare side .fifoEmpty
  | .fifoFull => bare side .fifoFull
  | .fifoFlush => bare side .fifoFlush
  | .fifoCount => bare side .fifoCount
  | .canConfig => withFilters (cmdImm cmd) side .canConfig
  | .canDispatch => withFrame side .canDispatch
  | .canTransmit => withFrame side .canTransmit
  | .errDrain => bare side .errDrain
  | .telemRead => bare side (.telemRead (cmdImm cmd))
  | .gaugeZero => bare side (.gaugeZero (cmdG cmd))
  | .gaugeSettgt => bare side (.gaugeSettgt (cmdG cmd) (cmdImm cmd))
  | .gaugeStep => bare side (.gaugeStep (cmdG cmd))
  | .gaugeTrack => bare side (.gaugeTrack (cmdG cmd))
  | .gaugeRead => bare side (.gaugeRead (cmdG cmd))
  | .clkInit => bare side (.clkInit ((cmdImm cmd).getLsbD 0))
  | .clkRead => bare side .clkRead
  | .irqEnable => bare side .irqEnable
  | .irqDisable => bare side .irqDisable
  | .fifoPush => withFrame side .fifoPush
  | .canRx => withFrame side .canRx
  | .canTxdone => bare side (.canTxdone ((cmdImm cmd).setWidth 5))
  | .canBuserr => withCode side .canBuserr
  | .clkTick => bare side .clkTick

/-- The decoder, total on every command word with any side-band words (R116). -/
def decode (cmd : Word) (side : List Word) : Except DecodeError Instr :=
  match decodeOpcode cmd with
  | none => .error .illegalOp
  | some op => assemble op cmd side

/-! ## The encoder (R129) -/

/-- A command word from its fields, RSV0 and RSV1 zero (R110). -/
def packCmd (op : BitVec 6) (g : BitVec 4) (imm : Half) : Word :=
  (imm ++ (0 : BitVec 4)) ++ ((g ++ (0 : BitVec 2)) ++ op)

/-- The gauge index field of a command: 0 where the command uses none (R112). -/
def Instr.gField : Instr → BitVec 4
  | .gaugeZero g | .gaugeSettgt g _ | .gaugeStep g | .gaugeTrack g | .gaugeRead g => g
  | .fifoPop | .fifoEmpty | .fifoFull | .fifoFlush | .fifoCount | .canConfig _ | .canDispatch _ | .canTransmit _
  | .errDrain | .telemRead _ | .clkInit _ | .clkRead | .irqEnable | .irqDisable | .fifoPush _ | .canRx _
  | .canTxdone _ | .canBuserr _ | .clkTick => 0

/-- The IMM16 field of a command: 0 where the command uses none (R113). -/
def Instr.immField : Instr → Half
  | .gaugeSettgt _ p => p
  | .canConfig entries => BitVec.ofNat 16 entries.length
  | .telemRead sig => sig
  | .clkInit ok => if ok then 1 else 0
  | .canTxdone slot => slot.setWidth 16
  | .fifoPop | .fifoEmpty | .fifoFull | .fifoFlush | .fifoCount | .canDispatch _ | .canTransmit _ | .errDrain
  | .gaugeZero _ | .gaugeStep _ | .gaugeTrack _ | .gaugeRead _ | .clkRead | .irqEnable | .irqDisable | .fifoPush _
  | .canRx _ | .canBuserr _ | .clkTick => 0

/-- The command word of a command (R110, R129). -/
def encodeCmd (i : Instr) : Word := packCmd i.opcode.code i.gField i.immField

/-- The four words of a FRAME record (R120). -/
def Frame.words (f : Frame) : List Word := [f.fw0, f.fw1, f.fw2, f.fw3]

/-- The side-band words of a command, in order (R119, R129). -/
def encodeSide : Instr → List Word
  | .canConfig entries => entries.flatMap fun e => [e.ew0, e.ew1]
  | .canDispatch f | .canTransmit f | .fifoPush f | .canRx f => f.words
  | .canBuserr code => [code]
  | .fifoPop | .fifoEmpty | .fifoFull | .fifoFlush | .fifoCount | .errDrain | .telemRead _ | .gaugeZero _
  | .gaugeSettgt _ _ | .gaugeStep _ | .gaugeTrack _ | .gaugeRead _ | .clkInit _ | .clkRead | .irqEnable
  | .irqDisable | .canTxdone _ | .clkTick => []

/-- The words of a command: its command word, then its side-band words (R129). -/
def encode (i : Instr) : List Word := encodeCmd i :: encodeSide i

/-! ## Instructions numbered as the opcode table numbers them -/

/-- Word `k` of an instruction whose bits are `w`: bits `32k+31` down to `32k`. -/
def wordOf (w k : Nat) : Word := BitVec.ofNat 32 (w >>> (32 * k))

/-- The command word of an instruction whose low `nbits` bits are those of `w`, every bit above them zero. -/
def tableCmd (nbits w : Nat) : Word := wordOf (w % 2 ^ nbits) 0

/-- The side-band words of that instruction, as many as its command word fixes (R119). -/
def tableSide (nbits w : Nat) : List Word :=
  match decodeOpcode (tableCmd nbits w) with
  | none => []
  | some op => (List.range (sideBandWords op (tableCmd nbits w))).map fun k => wordOf (w % 2 ^ nbits) (k + 1)

/-- The command the decoder reads from an instruction whose low `nbits` bits are those of `w`. -/
def decodeTableWord (nbits w : Nat) : Option Instr :=
  match decode (tableCmd nbits w) (tableSide nbits w) with
  | .ok i => some i
  | .error _ => none

end Sys2Proof
end

