-- ==== Sys2Proof/Config.lean ====
section
/-! DEFINITION. The parameters of one OUIB (00_scope.md R7, R8): plain data that no operation changes. A state
carries the parameters of the block it is a state of, so that every statement about all states is a statement
about all configurations. Which parameters are admitted is Machine/Params.lean. The spec leaves no value free,
so there is no opaque constant here. -/

namespace Sys2Proof

/-- How one decode-table field reads the payload, `f.KIND` with its `f.OFF` and `f.BIT` (30_encoding.md R124). -/
inductive FieldKind where
  /-- The byte at a byte offset. -/
  | byte (off : Nat)
  /-- The little-endian 16-bit word at a word index. -/
  | word (idx : Nat)
  /-- One bit of the byte at a byte offset. -/
  | bit (off : Nat) (pos : Nat)
  deriving DecidableEq, Repr

/-- A field descriptor: how it is read and the signal `f.SIG` it writes (30_encoding.md R124). -/
structure FieldDesc where
  kind : FieldKind
  sig : Nat
  deriving DecidableEq, Repr

/-- The sub-index selector `(SEL_OFF, SEL_VAL)` of a decode-table entry (30_encoding.md R124). -/
structure Selector where
  off : Nat
  val : Byte
  deriving DecidableEq, Repr

/-- One entry of DECODE_TABLE (30_encoding.md R124). `sel = none` is the spec's `SEL = NONE`. -/
structure DecodeEntry where
  id : BitVec 29
  ext : Bool
  sel : Option Selector
  fields : List FieldDesc
  deriving DecidableEq, Repr

/-- One piece of a raw-to-percent map: on the raw values `lo..hi` the percent is `(mul * raw + add) div den`. -/
structure MapSegment where
  lo : Half
  hi : Half
  mul : Int
  add : Int
  den : Nat
  deriving DecidableEq, Repr

/-- MAP_g as plain data (00_scope.md R7 "any total function" from uint16 to int32; the source's "linear or
piecewise-linear maps"): the first segment that covers the raw value decides, `dflt` where none does.
Every total function has such a form, with one segment for each raw value (assumption log entry 3). -/
structure GaugeMap where
  segments : List MapSegment
  dflt : BitVec 32
  deriving DecidableEq, Repr

/-- ZERO_MODE_g (00_scope.md R7). -/
inductive ZeroMode where
  | assume
  | hardstop
  deriving DecidableEq, Repr

/-- The configuration of one gauge (00_scope.md R7). `phaseLen` is L_g. `phaseTable = none` stands for a
deployment that gives no PHASE_TABLE_g (42_stepper.md R253). `signal = none` is SIGNAL_g = NONE. -/
structure GaugeCfg where
  phaseLen : Nat
  phaseTable : Option (List (BitVec 4))
  stepsPerRev : Nat
  fullScale : Nat
  stepDelay : Nat
  hold : Bool
  zeroMode : ZeroMode
  zeroRun : Nat
  signal : Option Nat
  map : GaugeMap
  deriving DecidableEq, Repr

/-- The parameters of one OUIB (00_scope.md R7): `fifoDepth` is N, `numFilters` is M, `numSignals` is S, and
there is one gauge configuration for each of the G gauges. -/
structure Config where
  fifoDepth : Nat
  numFilters : Nat
  numSignals : Nat
  decodeTable : List DecodeEntry
  gauges : List GaugeCfg
  deriving DecidableEq, Repr

/-- G, the number of gauges (00_scope.md R7). -/
def Config.numGauges (c : Config) : Nat := c.gauges.length

/-- The configuration used for a gauge index that names no gauge; a command never reads it, since
BAD_GAUGE_INDEX comes first (60_exceptions.md R324). -/
def GaugeCfg.absent : GaugeCfg :=
  { phaseLen := 4, phaseTable := none, stepsPerRev := 1, fullScale := 0, stepDelay := 0, hold := false,
    zeroMode := .assume, zeroRun := 0, signal := none, map := { segments := [], dflt := 0 } }

/-- The configuration of gauge `g`. -/
def Config.gaugeCfg (c : Config) (g : Nat) : GaugeCfg := c.gauges.getD g GaugeCfg.absent

/-- The decode table DT-V of 95_test_vectors.md section 0; its first entry is the source's (41_can.md R207). -/
def decodeTableV : List DecodeEntry :=
  [ { id := 0x703, ext := false, sel := none, fields := [⟨.word 0, 0⟩] },
    { id := 0x701, ext := false, sel := some ⟨0, 0x01⟩, fields := [⟨.byte 1, 1⟩, ⟨.bit 2 0, 2⟩, ⟨.bit 2 7, 3⟩] },
    { id := 0x701, ext := false, sel := some ⟨0, 0x02⟩, fields := [⟨.word 1, 1⟩] } ]

/-- Gauge 0 of CFG-V (92_eei_decisions.md D36): MAP_0(v) = v div 10. -/
def gaugeV0 : GaugeCfg :=
  { phaseLen := 4, phaseTable := none, stepsPerRev := 200, fullScale := 200, stepDelay := 10, hold := true,
    zeroMode := .assume, zeroRun := 0, signal := some 0,
    map := { segments := [⟨0, 0xFFFF, 1, 0, 10⟩], dflt := 0 } }

/-- Gauge 1 of CFG-V (95_test_vectors.md section 0). -/
def gaugeV1 : GaugeCfg :=
  { phaseLen := 8, phaseTable := none, stepsPerRev := 100, fullScale := 100, stepDelay := 0, hold := false,
    zeroMode := .hardstop, zeroRun := 3, signal := none, map := { segments := [], dflt := 0 } }

/-- CFG-V, the configuration of the spec's test vectors (95_test_vectors.md section 0). The spec fixes no
parameter value, so that `State.reset` uses this one is a DESIGN CHOICE (assumption log entry 2). -/
def Config.cfgV : Config :=
  { fifoDepth := 4, numFilters := 2, numSignals := 4, decodeTable := decodeTableV, gauges := [gaugeV0, gaugeV1] }

end Sys2Proof
end

