-- ==== Sys2Proof/Machine/State.lean ====
section
/-! DEFINITION. The state of OUIB (10_state.md) as plain data, the reasons a step can stop, and the state after
reset (70_reset_and_hazards.md R361). -/

namespace Sys2Proof.Machine

/-- `MODE`, 2 bits: BOOT = 0, RUN = 1, HALTED = 2, FAULTED = 3 (10_state.md R32). -/
inductive Mode where
  | boot
  | run
  | halted
  | faulted
  deriving DecidableEq, Repr

/-- `FAULT_CODE`, 4 bits: the codes 0x0 to 0xC in the order of 60_exceptions.md R321; 0xD to 0xF are never
raised. -/
inductive FaultCode where
  | none
  | illegalOp
  | wrongContext
  | irqNotMasked
  | clockNotRunning
  | clockAlreadyInit
  | badGaugeIndex
  | gaugeSequence
  | badSignalIndex
  | badFrame
  | filterMismatch
  | badFilterList
  | configTwice
  deriving DecidableEq, Repr

/-- `FILT[k]`, one receive filter (10_state.md R42). -/
structure FilterRec where
  valid : Bool
  ext : Bool
  id : BitVec 29
  mask : BitVec 29
  deriving DecidableEq, Repr

/-- A filter record after reset: no field set, so not valid (10_state.md R42). -/
def FilterRec.zero : FilterRec := ⟨false, false, 0, 0⟩

/-- `SIG[s]`, one telemetry signal (10_state.md R44). -/
structure SigRec where
  valid : Bool
  value : Half
  srcExt : Bool
  srcId : BitVec 29
  ts : Word
  deriving DecidableEq, Repr

/-- A signal after reset: every field 0 (10_state.md R44). -/
def SigRec.zero : SigRec := ⟨false, 0, false, 0, 0⟩

/-- `ZSTATE`: UNZEROED = 0, ZEROING = 1, READY = 2; the value 3 is never held (10_state.md R45). -/
inductive ZState where
  | unzeroed
  | zeroing
  | ready
  deriving DecidableEq, Repr

/-- `GAUGE[g]`, one stepper gauge (10_state.md R45). -/
structure GaugeRec where
  zstate : ZState
  cur : Half
  tgt : Half
  lastT : Word
  phase : BitVec 3
  pins : BitVec 4
  deriving DecidableEq, Repr

/-- A gauge after reset: UNZEROED, all coils off (10_state.md R45). -/
def GaugeRec.zero : GaugeRec := ⟨.unzeroed, 0, 0, 0, 0, 0⟩

/-- An event of the output history (00_scope.md R10, 10_state.md R50). -/
inductive OutEvent where
  /-- TX_REQ(ID, EXT, DLC, D[0..DLC-1]) (41_can.md R210). -/
  | txReq (id : BitVec 29) (ext : Bool) (dlc : BitVec 4) (data : List Byte)
  /-- CFG_OUT(K, E[0..K-1]) (41_can.md R191). -/
  | cfgOut (k : Nat) (entries : List FilterEntry)
  /-- DIAG_ERR(code) (41_can.md R217). -/
  | diagErr (code : Word)
  deriving DecidableEq, Repr

/-- A result record {V, B, D, F, S, Q}; a field the command does not name is 0 (30_encoding.md R126). -/
structure Result where
  v : Bool := false
  b : Bool := false
  d : Word := 0
  f : Frame := Frame.zero
  s : SigRec := SigRec.zero
  q : GaugeRec := GaugeRec.zero
  deriving DecidableEq, Repr

/-- What the environment does in one step: offer a command on a port (00_scope.md R12, 20_memory.md R91) or reset
the block (70_reset_and_hazards.md R360). The MODEL's own, not the spec's (assumption log entry 1). -/
inductive EnvEvent where
  | offer (port : Port) (cmd : Word) (side : List Word)
  | reset
  deriving DecidableEq, Repr

/-- The state of the block, with its parameters and its environment. -/
structure State where
  /-- The block's parameters; no operation changes them (00_scope.md R8, 70_reset_and_hazards.md R362). -/
  cfg : Config
  /-- `MODE` (10_state.md R32). -/
  mode : Mode
  /-- `FAULT_CODE` (10_state.md R33). -/
  faultCode : FaultCode
  /-- `FAULT_OP`: the OP field of the faulting command (10_state.md R33). -/
  faultOp : BitVec 6
  /-- `FAULT_PORT`: 0 = MAIN, 1 = IRQ (10_state.md R33). -/
  faultPort : Port
  /-- `IRQ_EN` (10_state.md R34). -/
  irqEn : Bool
  /-- `CFG_DONE` (10_state.md R35). -/
  cfgDone : Bool
  /-- `CLOCK` (10_state.md R36). -/
  clock : Word
  /-- `SLOT[0..N-1]` (10_state.md R37). -/
  slot : List Frame
  /-- `HEAD` (10_state.md R38). -/
  head : Half
  /-- `HWRAP` (10_state.md R38). -/
  hwrap : Bool
  /-- `TAIL` (10_state.md R39). -/
  tail : Half
  /-- `TWRAP` (10_state.md R39). -/
  twrap : Bool
  /-- `FILT[0..M-1]` (10_state.md R42). -/
  filt : List FilterRec
  /-- `ERR_FLAG` (10_state.md R43). -/
  errFlag : Bool
  /-- `ERR_CODE` (10_state.md R43). -/
  errCode : Word
  /-- `SIG[0..S-1]` (10_state.md R44). -/
  sig : List SigRec
  /-- `GAUGE[0..G-1]` (10_state.md R45). -/
  gauge : List GaugeRec
  /-- The output history, oldest event first (00_scope.md R10, 10_state.md R50). -/
  out : List OutEvent
  /-- The result channel of the MAIN port, oldest record first (30_encoding.md R126). -/
  resMain : List Result
  /-- The result channel of the IRQ port, oldest record first (30_encoding.md R126). -/
  resIrq : List Result
  /-- The MODEL's own: what the environment does from here on, the next event first (assumption log entry 1). -/
  env : List EnvEvent
  /-- The MODEL's own: the port of the command being handled (assumption log entry 1). -/
  port : Port
  deriving DecidableEq, Repr

/-- The reasons a step stops for something the spec gives no effect. The spec's own faults are no reason to stop:
they are a next state (60_exceptions.md R322). -/
inductive Fault where
  /-- Raised by the fetch of an offered command whose side band does not hold the number of words that its command
  word fixes (30_encoding.md R119): no such offer exists on the hardware. Safe: the model stops. -/
  | sideBandLength
  deriving DecidableEq, Repr

/-- The reasons the model gives no step. -/
inductive Refusal where
  /-- The instruction has no meaning yet; raised by no arm. Safe. -/
  | notModelled (mnemonic : String)
  /-- Raised by the fetch where the parameters are outside the bounds of 00_scope.md R7 or DECODE_TABLE is not
  well-formed: "The model refuses" such a configuration (41_can.md R206, 93_implementation_defined.md I17, I18).
  Safe. -/
  | badConfiguration
  deriving DecidableEq, Repr

/-- The block with parameters `c` right after reset (70_reset_and_hazards.md R361), its environment idle. -/
def State.resetWith (c : Config) : State :=
  { cfg := c
    mode := .boot
    faultCode := .none
    faultOp := 0
    faultPort := .main
    irqEn := false
    cfgDone := false
    clock := 0
    slot := List.replicate c.fifoDepth Frame.zero
    head := 0
    hwrap := false
    tail := 0
    twrap := false
    filt := List.replicate c.numFilters FilterRec.zero
    errFlag := false
    errCode := 0
    sig := List.replicate c.numSignals SigRec.zero
    gauge := List.replicate c.numGauges GaugeRec.zero
    out := []
    resMain := []
    resIrq := []
    env := []
    port := .main }

/-- The machine right after reset. Its parameters are CFG-V, a DESIGN CHOICE (assumption log entry 2): the spec
fixes none. -/
def State.reset : State := State.resetWith Config.cfgV

end Sys2Proof.Machine
end

