-- ==== Sys2Proof/Machine/Operands.lean ====
section
/-! DEFINITION. The operand records read field by field: FRAME and FILTER records, the two payload views, the field
descriptors of the decode table, and the match rules (20_memory.md, 30_encoding.md R120 to R125, 41_can.md). -/

namespace Sys2Proof

/-! ## FRAME records (30_encoding.md R120) -/

/-- `ID = FW0[28:0]`. -/
def Frame.id (f : Frame) : BitVec 29 := f.fw0.extractLsb' 0 29

/-- `EXT = FW0[29]`. -/
def Frame.ext (f : Frame) : Bool := f.fw0.getLsbD 29

/-- `FW0[31:30]`, reserved. -/
def Frame.rsv0 (f : Frame) : BitVec 2 := f.fw0.extractLsb' 30 2

/-- `DLC = FW1[3:0]`. -/
def Frame.dlc (f : Frame) : BitVec 4 := f.fw1.extractLsb' 0 4

/-- `SLOT = FW1[8:4]`. -/
def Frame.slot (f : Frame) : BitVec 5 := f.fw1.extractLsb' 4 5

/-- `FW1[31:9]`, reserved. -/
def Frame.rsv1 (f : Frame) : BitVec 23 := f.fw1.extractLsb' 9 23

/-- `D[i]`: byte `i mod 4` of FW2 for i < 4 and of FW3 for i ≥ 4 (20_memory.md R83, 30_encoding.md R120). -/
def Frame.byte (f : Frame) (i : Nat) : Byte :=
  if i < 4 then f.fw2.extractLsb' (8 * i) 8 else f.fw3.extractLsb' (8 * (i - 4)) 8

/-- `W[k] = D[2k] | (D[2k+1] << 8)`, the little-endian word view (20_memory.md R81). -/
def Frame.word (f : Frame) (k : Nat) : Half :=
  (f.byte (2 * k)).setWidth 16 ||| ((f.byte (2 * k + 1)).setWidth 16 <<< 8)

/-- The payload `D[0..DLC-1]`. -/
def Frame.payload (f : Frame) : List Byte := (List.range f.dlc.toNat).map f.byte

/-- Conditions (a) to (d) of a well-formed FRAME record (30_encoding.md R121). -/
def Frame.wellFormed (f : Frame) : Bool :=
  f.rsv0 == 0 && (f.ext || f.id.extractLsb' 11 18 == 0) && decide (f.dlc.toNat ≤ 8) && f.rsv1 == 0

/-! ## FILTER entries (30_encoding.md R122) -/

/-- `ID = EW0[28:0]`. -/
def FilterEntry.id (e : FilterEntry) : BitVec 29 := e.ew0.extractLsb' 0 29

/-- `EXT = EW0[29]`. -/
def FilterEntry.ext (e : FilterEntry) : Bool := e.ew0.getLsbD 29

/-- `MASK = EW1[28:0]`. -/
def FilterEntry.mask (e : FilterEntry) : BitVec 29 := e.ew1.extractLsb' 0 29

/-- A well-formed FILTER entry: reserved bits 0, and an 11-bit identifier and mask when EXT = 0. -/
def FilterEntry.wellFormed (e : FilterEntry) : Bool :=
  e.ew0.extractLsb' 30 2 == 0 && e.ew1.extractLsb' 29 3 == 0 &&
    (e.ext || (e.id.extractLsb' 11 18 == 0 && e.mask.extractLsb' 11 18 == 0))

/-- The filter record that CAN.CONFIG installs from an entry (41_can.md R191). -/
def FilterEntry.toRec (e : FilterEntry) : Machine.FilterRec := ⟨true, e.ext, e.id, e.mask⟩

namespace Machine

/-- `Match(f, fr)` (41_can.md R190). -/
def filterMatch (r : FilterRec) (f : Frame) : Bool :=
  r.valid && r.ext == f.ext && (f.id &&& r.mask) == (r.id &&& r.mask)

/-! ## Decode-table entries (41_can.md R200, R201) -/

/-- The selector of an entry against a frame: its byte lies below DLC and has its value. -/
def selectorMatch (sel : Option Selector) (f : Frame) : Bool :=
  match sel with
  | none => true
  | some x => decide (x.off < f.dlc.toNat) && f.byte x.off == x.val

/-- `EntryMatch(e, fr)` (41_can.md R200). -/
def entryMatch (e : DecodeEntry) (f : Frame) : Bool :=
  e.ext == f.ext && e.id == f.id && selectorMatch e.sel f

/-- `InRange(f, fr)`: every byte the field reads lies below DLC (20_memory.md R86, 41_can.md R201). -/
def inRange (k : FieldKind) (f : Frame) : Bool :=
  match k with
  | .byte off => decide (off < f.dlc.toNat)
  | .word idx => decide (2 * idx + 1 < f.dlc.toNat)
  | .bit off _ => decide (off < f.dlc.toNat)

/-- `FieldValue(f, fr)`, zero-extended to 16 bits (30_encoding.md R125, 41_can.md R201). -/
def fieldValue (k : FieldKind) (f : Frame) : Half :=
  match k with
  | .byte off => (f.byte off).setWidth 16
  | .word idx => f.word idx
  | .bit off pos => ((f.byte off >>> pos) &&& 1).setWidth 16

/-! ## Immediates (30_encoding.md R113) -/

/-- The percent of GAUGE.SETTGT: `sint(IMM16)`. -/
def percentOf (p : Half) : Int := p.toInt

end Machine
end Sys2Proof
end

