-- ==== Sys2Proof/Machine/Params.lean ====
section
/-! DEFINITION. The parameters as the commands use them, and the check that a configuration is one the spec admits
(00_scope.md R7, 41_can.md R206, 42_stepper.md R244 and R253). -/

namespace Sys2Proof

/-! ## Gauge parameters -/

/-- The default commutation table of L_g entries (42_stepper.md R253, from general knowledge by the spec's own
mark, 93_implementation_defined.md G1). -/
def defaultPhaseTable (phaseLen : Nat) : List (BitVec 4) :=
  if phaseLen = 8 then [0b0001, 0b0011, 0b0010, 0b0110, 0b0100, 0b1100, 0b1000, 0b1001]
  else [0b0011, 0b0110, 0b1100, 0b1001]

/-- PHASE_TABLE_g: the deployment's table, or the default where it gives none (42_stepper.md R253). -/
def GaugeCfg.phases (gc : GaugeCfg) : List (BitVec 4) := gc.phaseTable.getD (defaultPhaseTable gc.phaseLen)

/-- `PHASE_TABLE_g[PHASE]` (42_stepper.md R253). -/
def GaugeCfg.pattern (gc : GaugeCfg) (phase : BitVec 3) : BitVec 4 := gc.phases.getD phase.toNat 0

/-- A segment covers a raw value. -/
def MapSegment.covers (m : MapSegment) (raw : Half) : Bool :=
  decide (m.lo.toNat ≤ raw.toNat) && decide (raw.toNat ≤ m.hi.toNat)

/-- `MAP_g(raw)`, an int32 (00_scope.md R7, 42_stepper.md R256). -/
def GaugeMap.eval (m : GaugeMap) (raw : Half) : BitVec 32 :=
  match m.segments.find? (·.covers raw) with
  | some x => BitVec.ofInt 32 ((x.mul * raw.toNat + x.add) / (x.den : Int))
  | none => m.dflt

/-- `clamp(p, lo, hi)` (00_scope.md R9). -/
def clampInt (p lo hi : Int) : Int := if p < lo then lo else if p > hi then hi else p

/-- `TargetOf(g, p) = (clamp(p, 0, 100) * FULL_SCALE_g) div 100` (42_stepper.md R244). -/
def GaugeCfg.targetOf (gc : GaugeCfg) (p : Int) : Nat := ((clampInt p 0 100 * gc.fullScale) / 100).toNat

/-! ## Which configurations the model runs -/

/-- A field descriptor of R206 (a): its offset, bit position and signal index are in range. -/
def FieldDesc.admitted (s : Nat) (d : FieldDesc) : Bool :=
  decide (d.sig < s) &&
    match d.kind with
    | .byte off => decide (off ≤ 7)
    | .word idx => decide (idx ≤ 3)
    | .bit off pos => decide (off ≤ 7) && decide (pos ≤ 7)

/-- The selector of an entry names a byte of the payload (30_encoding.md R124). -/
def selectorAdmitted (sel : Option Selector) : Bool :=
  match sel with
  | none => true
  | some x => decide (x.off ≤ 7)

/-- One entry of the decode table by itself: R206 (a) and (b) of 41_can.md. -/
def DecodeEntry.admitted (s : Nat) (e : DecodeEntry) : Bool :=
  (e.ext || decide (e.id.toNat < 2 ^ 11)) && !e.fields.isEmpty && e.fields.all (·.admitted s) &&
    selectorAdmitted e.sel && decide (e.fields.map FieldDesc.sig).Nodup

/-- Two selectors of R206 (c): one byte offset, two values. -/
def selectorsApart (a b : Option Selector) : Bool :=
  match a, b with
  | some x, some y => x.off == y.off && x.val != y.val
  | none, _ => false
  | some _, none => false

/-- R206 (c) of 41_can.md for two entries of the table. -/
def DecodeEntry.apart (a b : DecodeEntry) : Bool :=
  !(a.id == b.id && a.ext == b.ext) || selectorsApart a.sel b.sel

/-- R206 (c) of 41_can.md: every two entries of the table. -/
def entriesApart : List DecodeEntry → Bool
  | [] => true
  | e :: es => es.all (e.apart ·) && entriesApart es

/-- One gauge configuration within the bounds of 00_scope.md R7. -/
def GaugeCfg.admitted (s : Nat) (gc : GaugeCfg) : Bool :=
  (gc.phaseLen == 4 || gc.phaseLen == 8) && gc.phases.length == gc.phaseLen &&
    decide (1 ≤ gc.stepsPerRev) && decide (gc.stepsPerRev ≤ 65535) && decide (gc.fullScale ≤ gc.stepsPerRev) &&
    decide (gc.stepDelay ≤ 65535) && decide (gc.zeroRun ≤ 65535) &&
    match gc.signal with
    | none => true
    | some x => decide (x < s)

/-- The configuration is one the model runs: the bounds of 00_scope.md R7 and R206 of 41_can.md. Any other is
refused (93_implementation_defined.md I17, I18). -/
def Config.admitted (c : Config) : Bool :=
  decide (1 ≤ c.fifoDepth) && decide (c.fifoDepth ≤ 65535) &&
    decide (1 ≤ c.numFilters) && decide (c.numFilters ≤ 32) &&
    decide (1 ≤ c.numSignals) && decide (c.numSignals ≤ 65536) &&
    decide (1 ≤ c.numGauges) && decide (c.numGauges ≤ 16) &&
    c.decodeTable.all (·.admitted c.numSignals) && entriesApart c.decodeTable &&
    c.gauges.all (·.admitted c.numSignals)

end Sys2Proof
end

