-- ==== Sys2Proof/Machine/Flags.lean ====
section
/-! DEFINITION. What is derived from the state and never stored: COUNT, empty and full, Idle and Stepping, elapsed time,
the acceptance conditions, and the bit encodings of the named state values (10_state.md, 60_exceptions.md). -/

namespace Sys2Proof

/-- The port number of `FAULT_PORT`: 0 = MAIN, 1 = IRQ (10_state.md R33). -/
def Port.bit : Port → BitVec 1
  | .main => 0
  | .irq => 1

namespace Machine

/-! ## Encodings of the named values -/

/-- The value of `MODE` (10_state.md R32). -/
def Mode.bits : Mode → BitVec 2
  | .boot => 0
  | .run => 1
  | .halted => 2
  | .faulted => 3

/-- The value of `FAULT_CODE` (60_exceptions.md R321). -/
def FaultCode.bits : FaultCode → BitVec 4
  | .none => 0x0
  | .illegalOp => 0x1
  | .wrongContext => 0x2
  | .irqNotMasked => 0x3
  | .clockNotRunning => 0x4
  | .clockAlreadyInit => 0x5
  | .badGaugeIndex => 0x6
  | .gaugeSequence => 0x7
  | .badSignalIndex => 0x8
  | .badFrame => 0x9
  | .filterMismatch => 0xA
  | .badFilterList => 0xB
  | .configTwice => 0xC

/-- The value of `ZSTATE` (10_state.md R45). -/
def ZState.bits : ZState → BitVec 2
  | .unzeroed => 0
  | .zeroing => 1
  | .ready => 2

/-! ## Acceptance (60_exceptions.md R324, R325) -/

/-- Commands are accepted: MODE is neither HALTED nor FAULTED (R324 point 1). -/
def Mode.accepting : Mode → Bool
  | .boot => true
  | .run => true
  | .halted => false
  | .faulted => false

/-- What enables a command's source (60_exceptions.md R325, R326). -/
inductive Gate where
  /-- MAIN-port commands are never gated. -/
  | always
  /-- The CAN-side commands need IRQ_EN = 1. -/
  | irqEnabled
  /-- CLK.TICK needs MODE = RUN. -/
  | running
  deriving DecidableEq, Repr

/-- The gate of each command (60_exceptions.md R325). -/
def gateOf : Opcode → Gate
  | .fifoPush | .canRx | .canTxdone | .canBuserr => .irqEnabled
  | .clkTick => .running
  | .fifoPop | .fifoEmpty | .fifoFull | .fifoFlush | .fifoCount => .always
  | .canConfig | .canDispatch | .canTransmit | .errDrain | .telemRead => .always
  | .gaugeZero | .gaugeSettgt | .gaugeStep | .gaugeTrack | .gaugeRead => .always
  | .clkInit | .clkRead | .irqEnable | .irqDisable => .always

/-- The command is not gated off (60_exceptions.md R325). -/
def State.gateOpen (s : State) (op : Opcode) : Bool :=
  match gateOf op with
  | .always => true
  | .irqEnabled => s.irqEn
  | .running => s.mode == .run

/-- The state is good: a run that reaches HALTED or FAULTED has gone wrong (60_exceptions.md R339). -/
def State.good (s : State) : Bool := s.mode.accepting

/-! ## The FIFO (10_state.md R38 to R40) -/

/-- A pointer extended by its wrap bit: `p + w*N`. -/
def extended (n : Nat) (p : Half) (w : Bool) : Nat := p.toNat + (if w then n else 0)

/-- `COUNT = ((TAIL + TWRAP*N) - (HEAD + HWRAP*N)) mod (2*N)` (10_state.md R40). -/
def State.count (s : State) : Nat :=
  (((extended s.cfg.fifoDepth s.tail s.twrap : Int) - (extended s.cfg.fifoDepth s.head s.hwrap : Int))
    % ((2 * s.cfg.fifoDepth : Nat) : Int)).toNat

/-- The FIFO is empty: COUNT = 0 (10_state.md R40). -/
def State.fifoIsEmpty (s : State) : Bool := s.count == 0

/-- The FIFO is full: COUNT = N (10_state.md R40). -/
def State.fifoIsFull (s : State) : Bool := s.count == s.cfg.fifoDepth

/-! ## The gauges (10_state.md R46, 42_stepper.md R250, R251) -/

/-- `GAUGE[g]`. -/
def State.gaugeAt (s : State) (g : Nat) : GaugeRec := s.gauge.getD g GaugeRec.zero

/-- `SIG[x]`. -/
def State.sigAt (s : State) (x : Nat) : SigRec := s.sig.getD x SigRec.zero

/-- `FILT[k]`. -/
def State.filtAt (s : State) (k : Nat) : FilterRec := s.filt.getD k FilterRec.zero

/-- `SLOT[i]`. -/
def State.slotAt (s : State) (i : Nat) : Frame := s.slot.getD i Frame.zero

/-- The gauge is Idle: CUR = TGT (10_state.md R46). -/
def GaugeRec.idle (r : GaugeRec) : Bool := r.cur == r.tgt

/-- `elapsed(g) = (CLOCK - LAST_T) mod 2^32` (42_stepper.md R250). -/
def elapsed (clock lastT : Word) : Nat := (clock - lastT).toNat

/-- GAUGE.STEP moves the gauge: it is Stepping and STEP_DELAY_g ticks have passed (42_stepper.md R251). -/
def GaugeRec.eligible (gc : GaugeCfg) (clock : Word) (r : GaugeRec) : Bool :=
  !r.idle && decide (gc.stepDelay ≤ elapsed clock r.lastT)

end Machine
end Sys2Proof
end

