-- ==== Sys2Proof/Machine/Ops.lean ====
section
/-! DEFINITION. The operations the commands share: taking a fault, delivering a result, emitting an event, the handling
order of a command, the FIFO's push and pop, and one gauge step. OUIB has no return from a fault: only reset
leaves FAULTED (60_exceptions.md R322, R329). -/

namespace Sys2Proof.Machine

/-! ## Faults, results, events -/

/-- Taking a fault: MODE becomes FAULTED and the record is written; nothing else changes, no result is delivered and
no event is emitted (60_exceptions.md R322). -/
def State.takeFault (s : State) (code : FaultCode) (op : BitVec 6) : State :=
  { s with mode := .faulted, faultCode := code, faultOp := op, faultPort := s.port }

/-- Deliver a result record on the channel of the port that issued the command (30_encoding.md R126). -/
def State.deliver (s : State) (r : Result) : State :=
  match s.port with
  | .main => { s with resMain := s.resMain ++ [r] }
  | .irq => { s with resIrq := s.resIrq ++ [r] }

/-- `emit E`: append an event to the output history (00_scope.md R10). -/
def State.emit (s : State) (e : OutEvent) : State := { s with out := s.out ++ [e] }

/-- Write `GAUGE[g]`. -/
def State.putGauge (s : State) (g : Nat) (r : GaugeRec) : State := { s with gauge := s.gauge.set g r }

/-! ## The handling of a command (60_exceptions.md R324) -/

/-- One check of a command: the fault it raises where it applies. -/
structure Check where
  applies : Bool
  code : FaultCode
  deriving DecidableEq, Repr

/-- The first check that applies decides (60_exceptions.md R324). -/
def firstFault : List Check → Option FaultCode
  | [] => none
  | c :: cs => if c.applies then some c.code else firstFault cs

/-- The handling of a decoded command, points 1 and 3 to 9 of 60_exceptions.md R324 (point 2 is the decoder's):
not accepted in HALTED and FAULTED; WRONG_CONTEXT; not accepted while gated off; the command's own checks in their
order; else its effect and its one result. "Not accepted" is a step that changes nothing (00_scope.md R10). -/
def command (op : Opcode) (s : State) (checks : List Check) (effect : State × Result) :
    Host.Outcome State Fault Refusal :=
  if !s.mode.accepting then .next s
  else if op.context ≠ s.port then .next (s.takeFault .wrongContext op.code)
  else if !s.gateOpen op then .next s
  else
    match firstFault checks with
    | some code => .next (s.takeFault code op.code)
    | none => .next (effect.1.deliver effect.2)

/-- CLOCK_NOT_RUNNING where a command needs the time base (60_exceptions.md R321). -/
def needsRun (s : State) : Check := ⟨s.mode != .run, .clockNotRunning⟩

/-- IRQ_NOT_MASKED where a command needs the CAN callbacks masked (60_exceptions.md R321). -/
def needsMask (s : State) : Check := ⟨s.irqEn, .irqNotMasked⟩

/-- BAD_GAUGE_INDEX (60_exceptions.md R321). -/
def needsGauge (s : State) (g : BitVec 4) : Check := ⟨decide (s.cfg.numGauges ≤ g.toNat), .badGaugeIndex⟩

/-- BAD_FRAME for conditions (a) to (d) of 30_encoding.md R121. -/
def needsFrame (f : Frame) : Check := ⟨!f.wellFormed, .badFrame⟩

/-! ## The FIFO (40_fifo.md) -/

/-- `advance(p, w)` (40_fifo.md R150). -/
def advance (n : Nat) (p : Half) (w : Bool) : Half × Bool :=
  if p.toNat + 1 = n then (0, !w) else (p + 1, w)

/-- `SLOT[TAIL] <- frame; (TAIL, TWRAP) <- advance(TAIL, TWRAP)` (40_fifo.md R151). -/
def State.pushFrame (s : State) (f : Frame) : State :=
  { s with
    slot := s.slot.set s.tail.toNat f
    tail := (advance s.cfg.fifoDepth s.tail s.twrap).1
    twrap := (advance s.cfg.fifoDepth s.tail s.twrap).2 }

/-- `(HEAD, HWRAP) <- advance(HEAD, HWRAP)` (40_fifo.md R156). -/
def State.popHead (s : State) : State :=
  { s with
    head := (advance s.cfg.fifoDepth s.head s.hwrap).1
    hwrap := (advance s.cfg.fifoDepth s.head s.hwrap).2 }

/-- Queue a frame, or drop it where the FIFO is full: drop-newest (40_fifo.md R151, R152). -/
def enqueue (s : State) (f : Frame) : State × Result :=
  if s.fifoIsFull then (s, { b := false }) else (s.pushFrame f, { b := true })

/-- Remove and return the oldest frame, or answer empty (40_fifo.md R156). -/
def dequeue (s : State) : State × Result :=
  if s.fifoIsEmpty then (s, { v := false }) else (s.popHead, { v := true, f := s.slotAt s.head.toNat })

/-- Every slot and every pointer cleared (40_fifo.md R160). -/
def State.flushFifo (s : State) : State :=
  { s with
    slot := List.replicate s.cfg.fifoDepth Frame.zero
    head := 0
    hwrap := false
    tail := 0
    twrap := false }

/-! ## Telemetry (41_can.md R202) -/

/-- Write the signal of one field descriptor, where the field is in range (41_can.md R202). -/
def writeField (f : Frame) (clock : Word) (sigs : List SigRec) (d : FieldDesc) : List SigRec :=
  if inRange d.kind f then sigs.set d.sig ⟨true, fieldValue d.kind f, f.ext, f.id, clock⟩ else sigs

/-- Dispatch a frame through the decode table: the first entry that matches, or none (41_can.md R202, R203). -/
def dispatchFrame (s : State) (f : Frame) : State × Result :=
  match s.cfg.decodeTable.find? (entryMatch · f) with
  | none => (s, { b := false })
  | some e => ({ s with sig := e.fields.foldl (writeField f s.clock) s.sig }, { b := true })

/-- The filter set that CAN.CONFIG installs: entry k on slot k, the other slots invalid (41_can.md R191). -/
def installedFilters (m : Nat) (entries : List FilterEntry) : List FilterRec :=
  (List.range m).map fun k =>
    match entries[k]? with
    | some e => e.toRec
    | none => FilterRec.zero

/-! ## The gauges (42_stepper.md) -/

/-- The gauge record after GAUGE.ZERO (42_stepper.md R241); PINS is not written. -/
def zeroGauge (gc : GaugeCfg) (clock : Word) (r : GaugeRec) : GaugeRec :=
  if gc.zeroMode = .assume ∨ gc.zeroRun = 0 then
    { r with phase := 0, lastT := clock, tgt := 0, cur := 0, zstate := .ready }
  else
    { r with phase := 0, lastT := clock, tgt := 0, cur := BitVec.ofNat 16 gc.zeroRun, zstate := .zeroing }

/-- The new PHASE when CUR rises: `(PHASE + 1) mod L`. -/
def phaseUp (gc : GaugeCfg) (p : BitVec 3) : BitVec 3 := BitVec.ofNat 3 ((p.toNat + 1) % gc.phaseLen)

/-- The new PHASE when CUR falls: `(PHASE + L - 1) mod L`. -/
def phaseDown (gc : GaugeCfg) (p : BitVec 3) : BitVec 3 := BitVec.ofNat 3 ((p.toNat + gc.phaseLen - 1) % gc.phaseLen)

/-- CUR one step toward TGT, with PHASE one table entry in the same direction (42_stepper.md R252). -/
def towardTarget (gc : GaugeCfg) (r : GaugeRec) : GaugeRec :=
  if r.cur.toNat < r.tgt.toNat then { r with cur := r.cur + 1, phase := phaseUp gc r.phase }
  else { r with cur := r.cur - 1, phase := phaseDown gc r.phase }

/-- After the move: LAST_T, PINS, and READY where the step ends a hard-stop run (42_stepper.md R252). -/
def settleStep (gc : GaugeCfg) (clock : Word) (r : GaugeRec) : GaugeRec :=
  { r with
    lastT := clock
    pins := if r.idle && !gc.hold then 0 else gc.pattern r.phase
    zstate := if r.idle && r.zstate == .zeroing then .ready else r.zstate }

/-- One GAUGE.STEP of a gauge that is not UNZEROED, with its Boolean result (42_stepper.md R252). -/
def stepGauge (gc : GaugeCfg) (clock : Word) (r : GaugeRec) : GaugeRec × Bool :=
  if r.idle then (if gc.hold then r else { r with pins := 0 }, false)
  else if elapsed clock r.lastT < gc.stepDelay then (r, false)
  else (settleStep gc clock (towardTarget gc r), true)

/-- `TGT <- TargetOf(g, p)`; nothing else of the gauge changes (42_stepper.md R245, R256). -/
def retarget (gc : GaugeCfg) (p : Int) (r : GaugeRec) : GaugeRec := { r with tgt := BitVec.ofNat 16 (gc.targetOf p) }

/-- The percent GAUGE.TRACK would set: none for SIGNAL_g = NONE or a signal not yet written (42_stepper.md R256). -/
def trackedPercent (s : State) (gc : GaugeCfg) : Option Int :=
  match gc.signal with
  | none => none
  | some x => if (s.sigAt x).valid then some (gc.map.eval (s.sigAt x).value).toInt else none

end Sys2Proof.Machine
end

