-- ==== Sys2Proof/Machine/Can.lean ====
section
/-! DEFINITION. The CAN filter, dispatch, transmit, error-latch and telemetry commands (41_can.md). -/

namespace Sys2Proof.Machine

/-- The filter list of CAN.CONFIG is bad: K > M, or an entry is not well-formed (41_can.md R191). -/
def badFilterList (s : State) (entries : List FilterEntry) : Bool :=
  decide (s.cfg.numFilters < entries.length) || entries.any (!·.wellFormed)

/-- CAN.CONFIG (41_can.md R191). -/
def execCanConfig (entries : List FilterEntry) (s : State) : Host.Outcome State Fault Refusal :=
  command .canConfig s
    [⟨badFilterList s entries, .badFilterList⟩, needsMask s, ⟨s.cfgDone, .configTwice⟩]
    (State.emit { s with filt := installedFilters s.cfg.numFilters entries, cfgDone := true }
      (.cfgOut entries.length entries), {})

/-- CAN.DISPATCH (41_can.md R202); the frame's SLOT is ignored. -/
def execCanDispatch (f : Frame) (s : State) : Host.Outcome State Fault Refusal :=
  command .canDispatch s [needsFrame f, needsRun s] (dispatchFrame s f)

/-- CAN.TRANSMIT (41_can.md R210); the frame's SLOT is ignored. -/
def execCanTransmit (f : Frame) (s : State) : Host.Outcome State Fault Refusal :=
  command .canTransmit s [needsFrame f] (s.emit (.txReq f.id f.ext f.dlc f.payload), {})

/-- ERR.DRAIN (41_can.md R217): read and clear in one transition; ERR_CODE stays. -/
def execErrDrain (s : State) : Host.Outcome State Fault Refusal :=
  command .errDrain s []
    (if s.errFlag then State.emit { s with errFlag := false } (.diagErr s.errCode) else s,
      { b := s.errFlag, d := s.errCode })

/-- TELEM.READ (41_can.md R220). -/
def execTelemRead (sig : Half) (s : State) : Host.Outcome State Fault Refusal :=
  command .telemRead s [⟨decide (s.cfg.numSignals ≤ sig.toNat), .badSignalIndex⟩] (s, { s := s.sigAt sig.toNat })

/-- CAN.RX (41_can.md R193): the frame must be well-formed with SLOT < M, and match the filter of its own slot. -/
def execCanRx (f : Frame) (s : State) : Host.Outcome State Fault Refusal :=
  command .canRx s
    [⟨!f.wellFormed || decide (s.cfg.numFilters ≤ f.slot.toNat), .badFrame⟩,
      ⟨!filterMatch (s.filtAt f.slot.toNat) f, .filterMismatch⟩]
    (enqueue s f)

/-- CAN.TXDONE (41_can.md R211): accepted with no effect, whatever the mailbox slot. -/
def execCanTxdone (_slot : BitVec 5) (s : State) : Host.Outcome State Fault Refusal :=
  command .canTxdone s [] (s, {})

/-- CAN.BUSERR (41_can.md R215): the latest code wins. -/
def execCanBuserr (code : Word) (s : State) : Host.Outcome State Fault Refusal :=
  command .canBuserr s [] ({ s with errFlag := true, errCode := code }, {})

end Sys2Proof.Machine
end

