-- ==== Sys2Proof/Machine/Fifo.lean ====
section
/-! DEFINITION. The async FIFO commands (40_fifo.md). -/

namespace Sys2Proof.Machine

/-- FIFO.POP (40_fifo.md R156). -/
def execFifoPop (s : State) : Host.Outcome State Fault Refusal :=
  command .fifoPop s [] (dequeue s)

/-- FIFO.EMPTY (40_fifo.md R157). -/
def execFifoEmpty (s : State) : Host.Outcome State Fault Refusal :=
  command .fifoEmpty s [] (s, { b := s.fifoIsEmpty })

/-- FIFO.FULL (40_fifo.md R158). -/
def execFifoFull (s : State) : Host.Outcome State Fault Refusal :=
  command .fifoFull s [] (s, { b := s.fifoIsFull })

/-- FIFO.FLUSH (40_fifo.md R160). -/
def execFifoFlush (s : State) : Host.Outcome State Fault Refusal :=
  command .fifoFlush s [needsMask s] (s.flushFifo, {})

/-- FIFO.COUNT (40_fifo.md R159). -/
def execFifoCount (s : State) : Host.Outcome State Fault Refusal :=
  command .fifoCount s [] (s, { d := BitVec.ofNat 32 s.count })

/-- FIFO.PUSH (40_fifo.md R151); the frame's SLOT is stored and not checked. -/
def execFifoPush (f : Frame) (s : State) : Host.Outcome State Fault Refusal :=
  command .fifoPush s [needsFrame f] (enqueue s f)

end Sys2Proof.Machine
end

