-- ==== Sys2Proof/Machine/Gauge.lean ====
section
/-! DEFINITION. The stepper gauge commands (42_stepper.md). The time `now` is the block's CLOCK (R242). -/

namespace Sys2Proof.Machine

/-- GAUGE_SEQUENCE where ZSTATE ≠ READY (60_exceptions.md R321). -/
def needsReady (s : State) (g : BitVec 4) : Check := ⟨(s.gaugeAt g.toNat).zstate != .ready, .gaugeSequence⟩

/-- GAUGE.ZERO (42_stepper.md R241). -/
def execGaugeZero (g : BitVec 4) (s : State) : Host.Outcome State Fault Refusal :=
  command .gaugeZero s
    [needsGauge s g, needsRun s, ⟨(s.gaugeAt g.toNat).zstate != .unzeroed, .gaugeSequence⟩]
    (s.putGauge g.toNat (zeroGauge (s.cfg.gaugeCfg g.toNat) s.clock (s.gaugeAt g.toNat)), {})

/-- GAUGE.SETTGT (42_stepper.md R245). -/
def execGaugeSettgt (g : BitVec 4) (p : Half) (s : State) : Host.Outcome State Fault Refusal :=
  command .gaugeSettgt s [needsGauge s g, needsReady s g]
    (s.putGauge g.toNat (retarget (s.cfg.gaugeCfg g.toNat) (percentOf p) (s.gaugeAt g.toNat)), {})

/-- GAUGE.STEP (42_stepper.md R252). -/
def execGaugeStep (g : BitVec 4) (s : State) : Host.Outcome State Fault Refusal :=
  let r := stepGauge (s.cfg.gaugeCfg g.toNat) s.clock (s.gaugeAt g.toNat)
  command .gaugeStep s
    [needsGauge s g, needsRun s, ⟨(s.gaugeAt g.toNat).zstate == .unzeroed, .gaugeSequence⟩]
    (s.putGauge g.toNat r.1, { b := r.2 })

/-- GAUGE.TRACK (42_stepper.md R256). -/
def execGaugeTrack (g : BitVec 4) (s : State) : Host.Outcome State Fault Refusal :=
  command .gaugeTrack s [needsGauge s g, needsReady s g]
    (match trackedPercent s (s.cfg.gaugeCfg g.toNat) with
    | none => (s, { b := false })
    | some p => (s.putGauge g.toNat (retarget (s.cfg.gaugeCfg g.toNat) p (s.gaugeAt g.toNat)), { b := true }))

/-- GAUGE.READ (42_stepper.md R257). -/
def execGaugeRead (g : BitVec 4) (s : State) : Host.Outcome State Fault Refusal :=
  command .gaugeRead s [needsGauge s g] (s, { q := s.gaugeAt g.toNat })

end Sys2Proof.Machine
end

