-- ==== Sys2Proof/Machine/System.lean ====
section
/-! DEFINITION. The clock and interrupt-control commands (43_system.md). -/

namespace Sys2Proof.Machine

/-- CLK.INIT (43_system.md R291): RUN where the timer started, HALTED where it failed; HALTED is no fault. -/
def execClkInit (ok : Bool) (s : State) : Host.Outcome State Fault Refusal :=
  command .clkInit s [⟨s.mode != .boot, .clockAlreadyInit⟩] ({ s with mode := if ok then .run else .halted }, {})

/-- CLK.READ (43_system.md R292). -/
def execClkRead (s : State) : Host.Outcome State Fault Refusal :=
  command .clkRead s [] (s, { d := s.clock })

/-- IRQ.ENABLE (43_system.md R294). -/
def execIrqEnable (s : State) : Host.Outcome State Fault Refusal :=
  command .irqEnable s [needsRun s] ({ s with irqEn := true }, {})

/-- IRQ.DISABLE (43_system.md R295). -/
def execIrqDisable (s : State) : Host.Outcome State Fault Refusal :=
  command .irqDisable s [] ({ s with irqEn := false }, {})

/-- CLK.TICK (43_system.md R293): `CLOCK <- (CLOCK + 1) mod 2^32`. -/
def execClkTick (s : State) : Host.Outcome State Fault Refusal :=
  command .clkTick s [] ({ s with clock := s.clock + 1 }, {})

end Sys2Proof.Machine
end

