-- ==== Sys2Proof/Machine/Dispatch.lean ====
section
/-! DEFINITION. The meaning of each command, one arm per constructor of Instr. -/

namespace Sys2Proof.Machine

def exec (i : Instr) (s : State) : Host.Outcome State Fault Refusal :=
  match i with
  | .fifoPop => Sys2Proof.Machine.execFifoPop s
  | .fifoEmpty => Sys2Proof.Machine.execFifoEmpty s
  | .fifoFull => Sys2Proof.Machine.execFifoFull s
  | .fifoFlush => Sys2Proof.Machine.execFifoFlush s
  | .fifoCount => Sys2Proof.Machine.execFifoCount s
  | .canConfig entries => Sys2Proof.Machine.execCanConfig entries s
  | .canDispatch f => Sys2Proof.Machine.execCanDispatch f s
  | .canTransmit f => Sys2Proof.Machine.execCanTransmit f s
  | .errDrain => Sys2Proof.Machine.execErrDrain s
  | .telemRead sig => Sys2Proof.Machine.execTelemRead sig s
  | .gaugeZero g => Sys2Proof.Machine.execGaugeZero g s
  | .gaugeSettgt g p => Sys2Proof.Machine.execGaugeSettgt g p s
  | .gaugeStep g => Sys2Proof.Machine.execGaugeStep g s
  | .gaugeTrack g => Sys2Proof.Machine.execGaugeTrack g s
  | .gaugeRead g => Sys2Proof.Machine.execGaugeRead g s
  | .clkInit ok => Sys2Proof.Machine.execClkInit ok s
  | .clkRead => Sys2Proof.Machine.execClkRead s
  | .irqEnable => Sys2Proof.Machine.execIrqEnable s
  | .irqDisable => Sys2Proof.Machine.execIrqDisable s
  | .fifoPush f => Sys2Proof.Machine.execFifoPush f s
  | .canRx f => Sys2Proof.Machine.execCanRx f s
  | .canTxdone slot => Sys2Proof.Machine.execCanTxdone slot s
  | .canBuserr code => Sys2Proof.Machine.execCanBuserr code s
  | .clkTick => Sys2Proof.Machine.execClkTick s

end Sys2Proof.Machine
end

