-- ==== Sys2Proof/Machine/Fetch.lean ====
section
/-! DEFINITION. What happens in a step before a command runs: the environment's next event, the acceptance of an
offered command and its decoding (60_exceptions.md R324 points 1 and 2, 70_reset_and_hazards.md R360). -/

namespace Sys2Proof.Machine

/-- What the environment's next event comes to: a step that runs no command, or a command to run in a state. -/
inductive Fetched where
  | done (o : Host.Outcome State Fault Refusal)
  | run (i : Instr) (s : State)
  deriving Repr

/-- The state in which an offered command is handled: the offer is taken from the environment's list and its port is
the one being served. -/
def State.serving (s : State) (port : Port) (rest : List EnvEvent) : State := { s with env := rest, port := port }

/-- Reset (70_reset_and_hazards.md R360, R362): every state element at its reset value, the output history and both
result channels empty, the parameters kept; the environment goes on. -/
def State.afterReset (s : State) (rest : List EnvEvent) : State := { State.resetWith s.cfg with env := rest }

/-- An offered command word with its side band: not accepted in HALTED and FAULTED, ILLEGAL_OP for a reserved
encoding, else the command to run (60_exceptions.md R324 points 1 and 2). -/
def fetchOffer (cmd : Word) (side : List Word) (s : State) : Fetched :=
  if s.mode.accepting then
    match decode cmd side with
    | .ok i => .run i s
    | .error .illegalOp => .done (.next (s.takeFault .illegalOp (cmdOp cmd)))
    | .error .sideBandLength => .done (.fault .sideBandLength)
  else .done (.next s)

/-- The environment's next event. No command runs on a configuration the model refuses (41_can.md R206). With no
event the block waits (60_exceptions.md R339). -/
def fetch (s : State) : Fetched :=
  if s.cfg.admitted then
    match s.env with
    | [] => .done (.next s)
    | .reset :: rest => .done (.next (s.afterReset rest))
    | .offer port cmd side :: rest => fetchOffer cmd side (s.serving port rest)
  else .done (.refused .badConfiguration)

/-- The event that offers an instruction whose low `nbits` bits are those of `w`, on the port its OP names. -/
def tableOffer (nbits w : Nat) : EnvEvent :=
  .offer (opContext (cmdOp (tableCmd nbits w))) (tableCmd nbits w) (tableSide nbits w)

end Sys2Proof.Machine
end

