-- ==== Sys2Proof/Machine/Step.lean ====
section
/-! DEFINITION. One step of the block: the environment's next event, and the command it offers (20_memory.md R90). -/

namespace Sys2Proof.Machine

/-- One step: one atomic transition of the whole block (20_memory.md R90, 60_exceptions.md R327). -/
def step (s : State) : Host.Outcome State Fault Refusal :=
  match fetch s with
  | .done o => o
  | .run i t => exec i t

/-- `s` with that instruction offered next, on the port its OP names; the rest of the environment's events, and all
of the block's state, as they were. -/
def State.withFetchWord (s : State) (nbits w : Nat) : State := { s with env := tableOffer nbits w :: s.env }

end Sys2Proof.Machine
end

