-- ==== Sys2Proof/Machine/Pseudo.lean ====
section
/-! DEFINITION. The assembler's pseudo-commands (30_encoding.md R128) and the boot sequence (70_reset_and_hazards.md
R363): each is what the MAIN agent issues next, given the result of its last command. They are no command words and
run nothing by themselves: the commands they issue are offered on the MAIN port like any other, and the environment
may interleave IRQ commands between any two of them. -/

namespace Sys2Proof.Machine

/-- The pseudo-commands. BOOT takes the operand of its CLK.INIT and the filters of its CAN.CONFIG. -/
inductive Pseudo where
  | poll
  | drainAll
  | stepAll
  | trackAll
  | loopIter
  | boot (ok : Bool) (filters : List FilterEntry)
  deriving DecidableEq, Repr

/-- The pseudo-command an assembler line without operands names (30_encoding.md R128). BOOT needs the filters of its
CAN.CONFIG, which R128 gives no spelling for. -/
def Pseudo.named (line : String) : Option Pseudo :=
  if line = "POLL" then some .poll
  else if line = "DRAIN_ALL" then some .drainAll
  else if line = "STEP_ALL" then some .stepAll
  else if line = "TRACK_ALL" then some .trackAll
  else if line = "LOOP_ITER" then some .loopIter
  else none

/-- A piece of what the MAIN agent still has to issue. -/
inductive Task where
  /-- Issue this command. -/
  | issue (i : Instr)
  /-- The rest of POLL: dispatch the frame that the FIFO.POP just returned, if V = 1. -/
  | dispatchPopped
  /-- The rest of DRAIN_ALL: if V = 1, dispatch the frame and poll again. -/
  | drainPopped
  /-- The rest of a hard-stop run of gauge `g`: unless GAUGE.READ gave READY, step and read again. -/
  | awaitReady (g : BitVec 4)
  /-- LOOP_ITER forever. -/
  | loopForever
  deriving DecidableEq, Repr

/-- The gauge indices in order, as GAUGE command operands. -/
def gaugeIndices (c : Config) : List (BitVec 4) := (List.range c.numGauges).map (BitVec.ofNat 4)

/-- GAUGE.STEP of every gauge, in index order. -/
def stepAllTasks (c : Config) : List Task := (gaugeIndices c).map fun g => .issue (.gaugeStep g)

/-- GAUGE.TRACK of every gauge, in index order. -/
def trackAllTasks (c : Config) : List Task := (gaugeIndices c).map fun g => .issue (.gaugeTrack g)

/-- One main-loop iteration: ERR.DRAIN, DRAIN_ALL, TRACK_ALL, STEP_ALL. -/
def loopIterTasks (c : Config) : List Task :=
  [.issue .errDrain, .issue .fifoPop, .drainPopped] ++ trackAllTasks c ++ stepAllTasks c

/-- The zeroing of one gauge in the boot sequence: GAUGE.ZERO, and the hard-stop run where the gauge needs one. -/
def zeroTasks (c : Config) (g : BitVec 4) : List Task :=
  if (c.gaugeCfg g.toNat).zeroMode = .hardstop ∧ 0 < (c.gaugeCfg g.toNat).zeroRun then
    [.issue (.gaugeZero g), .issue (.gaugeStep g), .issue (.gaugeRead g), .awaitReady g]
  else [.issue (.gaugeZero g)]

/-- The boot sequence (70_reset_and_hazards.md R363); after `CLK.INIT fail` nothing else follows. -/
def bootTasks (c : Config) (ok : Bool) (filters : List FilterEntry) : List Task :=
  if ok then
    [.issue (.clkInit true), .issue .fifoFlush, .issue (.canConfig filters)] ++
      (gaugeIndices c).flatMap (zeroTasks c) ++ [.issue .irqEnable, .loopForever]
  else [.issue (.clkInit false)]

/-- What a pseudo-command expands into. -/
def Pseudo.expand (c : Config) : Pseudo → List Task
  | .poll => [.issue .fifoPop, .dispatchPopped]
  | .drainAll => [.issue .fifoPop, .drainPopped]
  | .stepAll => stepAllTasks c
  | .trackAll => trackAllTasks c
  | .loopIter => loopIterTasks c
  | .boot ok filters => bootTasks c ok filters

/-- The next command the MAIN agent issues and what it has left, given the last result on its port; none when it has
nothing left. -/
def nextCommand (c : Config) (last : Result) : List Task → Option (Instr × List Task)
  | [] => none
  | .issue i :: ts => some (i, ts)
  | .dispatchPopped :: ts => if last.v then some (.canDispatch last.f, ts) else nextCommand c last ts
  | .drainPopped :: ts =>
    if last.v then some (.canDispatch last.f, .issue .fifoPop :: .drainPopped :: ts) else nextCommand c last ts
  | .awaitReady g :: ts =>
    if last.q.zstate = .ready then nextCommand c last ts
    else some (.gaugeStep g, .issue (.gaugeRead g) :: .awaitReady g :: ts)
  | .loopForever :: _ => some (.errDrain, (loopIterTasks c).drop 1 ++ [.loopForever])

/-- The last result delivered on the MAIN port. -/
def State.lastMain (s : State) : Result := s.resMain.getLastD {}

/-- The MAIN agent issues the next command of its tasks: the command is offered on the MAIN port. -/
def State.issueNext (s : State) (ts : List Task) : Option (State × List Task) :=
  match nextCommand s.cfg s.lastMain ts with
  | none => none
  | some (i, rest) => some ({ s with env := .offer .main (encodeCmd i) (encodeSide i) :: s.env }, rest)

end Sys2Proof.Machine
end

