-- ==== Sys2Proof/Safety.lean ====
section
/-! DEFINITION. The terms in which claims about OUIB are stated: the admission of a command, the invariant of the block,
runs of several steps, the FIFO as a queue of frames, and what a step did as its result channels show it. -/

namespace Sys2Proof.Machine

/-! ## Admission of a command (60_exceptions.md R324 points 1, 3 and 4) -/

/-- The command would be handled: MODE accepts commands, the port is its context's, it is not gated off. -/
def State.admits (s : State) (op : Opcode) : Bool :=
  s.mode.accepting && s.port == op.context && s.gateOpen op

/-- The faults each command can raise once it is decoded (60_exceptions.md R321). -/
def faultsOf : Opcode → List FaultCode
  | .fifoPop | .fifoEmpty | .fifoFull | .fifoCount | .errDrain | .clkRead | .irqDisable => [.wrongContext]
  | .canTxdone | .canBuserr | .clkTick => [.wrongContext]
  | .fifoFlush => [.wrongContext, .irqNotMasked]
  | .canConfig => [.wrongContext, .badFilterList, .irqNotMasked, .configTwice]
  | .canDispatch => [.wrongContext, .badFrame, .clockNotRunning]
  | .canTransmit => [.wrongContext, .badFrame]
  | .telemRead => [.wrongContext, .badSignalIndex]
  | .gaugeZero => [.wrongContext, .badGaugeIndex, .clockNotRunning, .gaugeSequence]
  | .gaugeSettgt => [.wrongContext, .badGaugeIndex, .gaugeSequence]
  | .gaugeStep => [.wrongContext, .badGaugeIndex, .clockNotRunning, .gaugeSequence]
  | .gaugeTrack => [.wrongContext, .badGaugeIndex, .gaugeSequence]
  | .gaugeRead => [.wrongContext, .badGaugeIndex]
  | .clkInit => [.wrongContext, .clockAlreadyInit]
  | .irqEnable => [.wrongContext, .clockNotRunning]
  | .fifoPush => [.wrongContext, .badFrame]
  | .canRx => [.wrongContext, .badFrame, .filterMismatch]

/-! ## The fields of the command word a command may use (30_encoding.md R112, R113) -/

/-- The command uses the gauge index field G (R112). -/
def usesGauge : Opcode → Bool
  | .gaugeZero | .gaugeSettgt | .gaugeStep | .gaugeTrack | .gaugeRead => true
  | .fifoPop | .fifoEmpty | .fifoFull | .fifoFlush | .fifoCount | .canConfig | .canDispatch | .canTransmit => false
  | .errDrain | .telemRead | .clkInit | .clkRead | .irqEnable | .irqDisable => false
  | .fifoPush | .canRx | .canTxdone | .canBuserr | .clkTick => false

/-- The values of IMM16 that the command admits (R113). -/
def immAdmitted (op : Opcode) (imm : Half) : Bool :=
  match op with
  | .gaugeSettgt | .canConfig | .telemRead => true
  | .clkInit => decide (imm.toNat < 2)
  | .canTxdone => decide (imm.toNat < 32)
  | .fifoPop | .fifoEmpty | .fifoFull | .fifoFlush | .fifoCount | .canDispatch | .canTransmit | .errDrain => imm == 0
  | .gaugeZero | .gaugeStep | .gaugeTrack | .gaugeRead | .clkRead | .irqEnable | .irqDisable => imm == 0
  | .fifoPush | .canRx | .canBuserr | .clkTick => imm == 0

/-! ## The FIFO as a queue -/

/-- The frames from HEAD to TAIL, oldest first (10_state.md R37 to R40). -/
def State.queued (s : State) : List Frame :=
  (List.range s.count).map fun k => s.slotAt ((s.head.toNat + k) % s.cfg.fifoDepth)

/-! ## The invariant -/

/-- The FIFO: N slots, both pointers below N, COUNT ≤ N, only well-formed frames (10_state.md R37 to R40). -/
abbrev FifoInv (s : State) : Prop :=
  s.slot.length = s.cfg.fifoDepth ∧ s.head.toNat < s.cfg.fifoDepth ∧ s.tail.toNat < s.cfg.fifoDepth ∧
    s.count ≤ s.cfg.fifoDepth ∧ ∀ f ∈ s.slot, f.wellFormed = true

/-- The filters: M records, 11-bit identifiers and masks where EXT = 0, none valid before CAN.CONFIG
(10_state.md R35, R42). -/
abbrev FilterInv (s : State) : Prop :=
  s.filt.length = s.cfg.numFilters ∧
    (∀ r ∈ s.filt, r.ext = false → r.id.extractLsb' 11 18 = 0 ∧ r.mask.extractLsb' 11 18 = 0) ∧
    (s.cfgDone = false → ∀ r ∈ s.filt, r = FilterRec.zero)

/-- The telemetry store: S records, a signal without VALID still at reset, an 11-bit source identifier where
SRC_EXT = 0 (10_state.md R44). -/
abbrev TelemInv (s : State) : Prop :=
  s.sig.length = s.cfg.numSignals ∧
    ∀ r ∈ s.sig, (r.valid = false → r = SigRec.zero) ∧ (r.srcExt = false → r.srcId.extractLsb' 11 18 = 0)

/-- One gauge: PHASE below L_g; PINS off or the pattern of PHASE; an UNZEROED gauge still at reset; a ZEROING gauge on
its way down to 0; a READY gauge within FULL_SCALE_g (10_state.md R45, 42_stepper.md R240, R241, R244). -/
abbrev GaugeInv (gc : GaugeCfg) (r : GaugeRec) : Prop :=
  r.phase.toNat < gc.phaseLen ∧ (r.pins = 0 ∨ r.pins = gc.pattern r.phase) ∧
    (r.zstate = .unzeroed → r = GaugeRec.zero) ∧
    (r.zstate = .zeroing →
      gc.zeroMode = .hardstop ∧ r.tgt = 0 ∧ 0 < r.cur.toNat ∧ r.cur.toNat ≤ gc.zeroRun) ∧
    (r.zstate = .ready → r.cur.toNat ≤ gc.fullScale ∧ r.tgt.toNat ≤ gc.fullScale)

/-- The G gauges. -/
abbrev GaugesInv (s : State) : Prop :=
  s.gauge.length = s.cfg.numGauges ∧ ∀ g < s.cfg.numGauges, GaugeInv (s.cfg.gaugeCfg g) (s.gaugeAt g)

/-- Without a running clock nothing has happened yet: CLOCK 0, the CAN callbacks masked, the FIFO empty, the error latch
clear, no signal written and no gauge zeroed; and the fault record is set exactly in FAULTED (10_state.md R32, R33,
60_exceptions.md R330, 70_reset_and_hazards.md R364). -/
abbrev ModeInv (s : State) : Prop :=
  (s.mode = .boot ∨ s.mode = .halted →
    s.clock = 0 ∧ s.irqEn = false ∧ s.count = 0 ∧ s.errFlag = false ∧ (∀ r ∈ s.sig, r = SigRec.zero) ∧
      ∀ r ∈ s.gauge, r = GaugeRec.zero) ∧
    (s.faultCode = .none ↔ s.mode ≠ .faulted) ∧
    (s.mode ≠ .faulted → s.faultOp = 0 ∧ s.faultPort = .main)

/-- The invariant of the block. -/
abbrev State.Inv (s : State) : Prop :=
  s.cfg.admitted = true ∧ FifoInv s ∧ FilterInv s ∧ TelemInv s ∧ GaugesInv s ∧ ModeInv s

/-! ## Runs -/

/-- The state after `k` steps; none where one of them stops. -/
def stepN : Nat → State → Option State
  | 0, s => some s
  | k + 1, s =>
    match step s with
    | .next t => stepN k t
    | .fault _ => none
    | .refused _ => none

/-- The environment resets the block in none of its next `k` events. -/
def State.noResetFor (s : State) (k : Nat) : Bool := (s.env.take k).all (· != .reset)

/-- The state of the block without the model's own environment: everything the spec names. -/
def State.sameBlock (s t : State) : Prop := { s with env := t.env, port := t.port } = t

/-! ## What a step did, as the result channels show it -/

/-- The results that a transition from `s` to `t` added to the two channels. -/
def delivered (s t : State) : List Result := t.resMain.drop s.resMain.length ++ t.resIrq.drop s.resIrq.length

/-- A change of the FIFO's content. -/
inductive FifoEvent where
  | pushed (f : Frame)
  | popped (f : Frame)
  | cleared
  deriving DecidableEq, Repr

/-- What a command did to the FIFO, read from its results: a push that returned B = 1, a pop that returned V = 1 with
its frame, a flush that completed. -/
def commandEvents (i : Instr) (results : List Result) : List FifoEvent :=
  match i with
  | .fifoPush f | .canRx f => if results.any Result.b then [.pushed f] else []
  | .fifoPop => (results.filter Result.v).map fun r => .popped r.f
  | .fifoFlush => if results.isEmpty then [] else [.cleared]
  | .fifoEmpty | .fifoFull | .fifoCount | .canConfig _ | .canDispatch _ | .canTransmit _ | .errDrain | .telemRead _ => []
  | .gaugeZero _ | .gaugeSettgt _ _ | .gaugeStep _ | .gaugeTrack _ | .gaugeRead _ => []
  | .clkInit _ | .clkRead | .irqEnable | .irqDisable | .canTxdone _ | .canBuserr _ | .clkTick => []

/-- What the step from `s` did to the FIFO. A reset clears it. -/
def stepEvents (s : State) : List FifoEvent :=
  match fetch s with
  | .run i t =>
    match exec i t with
    | .next u => commandEvents i (delivered t u)
    | .fault _ => []
    | .refused _ => []
  | .done _ =>
    match s.env with
    | .reset :: _ => [.cleared]
    | .offer _ _ _ :: _ => []
    | [] => []

/-- What the next `k` steps did to the FIFO, in order. -/
def runEvents : Nat → State → List FifoEvent
  | 0, _ => []
  | k + 1, s =>
    stepEvents s ++
      match step s with
      | .next t => runEvents k t
      | .fault _ => []
      | .refused _ => []

/-- A queue of frames driven by FIFO events; none where a pop is not of the oldest frame. -/
def replay : List FifoEvent → List Frame → Option (List Frame)
  | [], q => some q
  | .pushed f :: es, q => replay es (q ++ [f])
  | .popped _ :: _, [] => none
  | .popped f :: es, g :: q => if f = g then replay es q else none
  | .cleared :: es, _ => replay es []

/-- The frames pushed. -/
def pushedFrames (es : List FifoEvent) : List Frame :=
  es.filterMap fun
    | .pushed f => some f
    | .popped _ => none
    | .cleared => none

/-- The frames popped. -/
def poppedFrames (es : List FifoEvent) : List Frame :=
  es.filterMap fun
    | .pushed _ => none
    | .popped f => some f
    | .cleared => none

/-! ## Gauge motion -/

/-- `|TGT - CUR|`. -/
def GaugeRec.distance (r : GaugeRec) : Nat := (r.tgt.toNat - r.cur.toNat) + (r.cur.toNat - r.tgt.toNat)

/-- The step from `s` is a GAUGE.STEP of gauge `g` that returned B = 1. -/
def movesGauge (g : Nat) (s : State) : Bool :=
  match fetch s with
  | .run (.gaugeStep h) t =>
    match exec (.gaugeStep h) t with
    | .next u => h.toNat == g && (delivered t u).any Result.b
    | .fault _ => false
    | .refused _ => false
  | .run _ _ => false
  | .done _ => false

/-- How many of the next `k` steps are GAUGE.STEP commands of gauge `g` that return B = 1. -/
def moves (g : Nat) : Nat → State → Nat
  | 0, _ => 0
  | k + 1, s =>
    (if movesGauge g s then 1 else 0) +
      match step s with
      | .next t => moves g k t
      | .fault _ => 0
      | .refused _ => 0

/-- TGT of gauge `g` stays as it is in `s` for the next `k` steps, and the block is not reset in them. -/
def State.holdsTarget (s : State) (g k : Nat) : Prop :=
  s.noResetFor k = true ∧
    ∀ j ≤ k, ∀ t, stepN j s = some t → (t.gaugeAt g).tgt = (s.gaugeAt g).tgt

end Sys2Proof.Machine
end

