-- ==== Sys2Proof/Certificates/Slice0/Obligations.lean ====
section
/-! DEFINITION. The statements for the provers. -/

open Sys2Proof Sys2Proof.Machine

/-! ## Encoding (30_encoding.md) -/

/-- Decode and encode agree: decoding the words of a well-formed command gives it back, every operand at every value its
field admits. -/
def Obligations.DecodeOfEncode : Prop :=
  ∀ i : Instr, i.wellFormed = true → decode (encodeCmd i) (encodeSide i) = .ok i

/-- Every word has one meaning: a command that was decoded encodes to the very words it was decoded from. -/
def Obligations.EncodeOfDecode : Prop :=
  ∀ (cmd : Word) (side : List Word) (i : Instr),
    decode cmd side = .ok i → encode i = cmd :: side ∧ i.wellFormed = true

/-- R116: decoding is total and no two rows match the same word; a word is a command exactly if one row matches it, and
a word that matches no row is a reserved encoding whatever its side band. -/
def Obligations.OneRowPerWord : Prop :=
  (∀ (cmd : Word), ∀ r ∈ rows, ∀ r' ∈ rows,
      cmd &&& r.mask = r.pattern → cmd &&& r'.mask = r'.pattern → r = r') ∧
    (∀ (cmd : Word) (op : Opcode),
      decodeOpcode cmd = some op ↔ ∃ r ∈ rows, r.op = op ∧ cmd &&& r.mask = r.pattern) ∧
    ∀ (cmd : Word) (side : List Word),
      (∀ r ∈ rows, cmd &&& r.mask ≠ r.pattern) → decode cmd side = .error .illegalOp

/-- Reserved encodings: a word is a command exactly if its OP is listed and its RSV0, RSV1, unused G, and unused or
reserved IMM16 bits are all zero; the OP values that no row lists are those the spec reserves. What a reserved encoding
does is ReservedWordFaults. -/
def Obligations.ReservedEncodings : Prop :=
  (∀ (cmd : Word) (op : Opcode),
      decodeOpcode cmd = some op ↔
        cmdOp cmd = op.code ∧ cmdRsv0 cmd = 0 ∧ cmdRsv1 cmd = 0 ∧
          (usesGauge op = true ∨ cmdG cmd = 0) ∧ immAdmitted op (cmdImm cmd) = true) ∧
    ∀ v : BitVec 6,
      (∀ op : Opcode, op.code ≠ v) ↔
        v.toNat = 0 ∨ v.toNat = 6 ∨ v.toNat = 7 ∨ (0x0D ≤ v.toNat ∧ v.toNat ≤ 0x0F) ∨
          (0x15 ≤ v.toNat ∧ v.toNat ≤ 0x17) ∨ (0x1C ≤ v.toNat ∧ v.toNat ≤ 0x1F) ∨ 0x25 ≤ v.toNat

/-- R119: the side band of a command has four words for a FRAME command, 2·K for CAN.CONFIG with K = IMM16, one for
CAN.BUSERR and none for every other; the decoder reads a command exactly where the side band has that length. -/
def Obligations.SideBandLengths : Prop :=
  ∀ (cmd : Word) (side : List Word) (op : Opcode), decodeOpcode cmd = some op →
    ((∃ i, decode cmd side = .ok i ∧ i.opcode = op) ↔
      side.length =
        if op = .fifoPush ∨ op = .canRx ∨ op = .canDispatch ∨ op = .canTransmit then 4
        else if op = .canConfig then 2 * (cmdImm cmd).toNat
        else if op = .canBuserr then 1
        else 0)

/-- Words of the spec's own examples decode to the commands they stand for (30_encoding.md R129, 95_test_vectors.md
ENC-5, ENC-10, ENC-14, ENC-17, CAN-1). -/
def Obligations.SpecWordsDecode : Prop :=
  decode 0xFFFB0111 [] = .ok (.gaugeSettgt 1 (BitVec.ofInt 16 (-5))) ∧
    decode 0x00000009 [0x00000703, 0x00000002, 0x0000014A, 0x00000000]
      = .ok (.canDispatch ⟨0x703, 2, 0x14A, 0⟩) ∧
    decode 0x00010018 [] = .ok (.clkInit true) ∧ decode 0x00000018 [] = .ok (.clkInit false) ∧
    decode 0x00030022 [] = .ok (.canTxdone 3) ∧
    decode 0x00010008 [0x00000700, 0x000007FC] = .ok (.canConfig [⟨0x700, 0x7FC⟩]) ∧
    decode 0x00000110 [] = .ok (.gaugeZero 1) ∧ decode 0x00000001 [] = .ok .fifoPop

/-! ## Steps, acceptance, reset -/

/-- A step runs the decoded command: the command word and side band of the offer decode to `i`, and the step is `exec i` in
the state where the offer is taken and its port is the one being served. That commands come from a list of events in the
state is the model's choice (assumption log entry 1). -/
def Obligations.StepRunsDecodedCommand : Prop :=
  ∀ (s : State) (p : Port) (cmd : Word) (side : List Word) (rest : List EnvEvent) (i : Instr),
    s.cfg.admitted = true → s.mode.accepting = true → s.env = .offer p cmd side :: rest → decode cmd side = .ok i →
      step s = exec i { s with env := rest, port := p }

/-- A reserved encoding on either port takes the fault ILLEGAL_OP, with the OP field of the word and the port. The list of
events it is offered from is the model's choice (assumption log entry 1). -/
def Obligations.ReservedWordFaults : Prop :=
  ∀ (s : State) (p : Port) (cmd : Word) (side : List Word) (rest : List EnvEvent),
    s.cfg.admitted = true → s.mode.accepting = true → s.env = .offer p cmd side :: rest → decodeOpcode cmd = none →
      step s = .next { s with env := rest, port := p, mode := .faulted, faultCode := .illegalOp,
                              faultOp := cmd.extractLsb' 0 6, faultPort := p }

/-- In HALTED and FAULTED neither port accepts a command, and nothing of the block changes until a reset. That an offer which
is not accepted leaves the list of events is the model's choice (assumption log entry 1). -/
def Obligations.QuietUntilReset : Prop :=
  ∀ (k : Nat) (s t : State),
    s.cfg.admitted = true → (s.mode = .halted ∨ s.mode = .faulted) → s.noResetFor k = true →
      (∃ u, stepN k s = some u) ∧ (stepN k s = some t → t = { s with env := s.env.drop k, port := t.port })

/-- R360 to R362: a reset leaves every state element at its reset value, the output history and both result channels empty and
the parameters as they were, from any state in which the configuration is one the model runs;
the environment's remaining events and the port are the model's own (assumption log entry 1). -/
def Obligations.ResetValues : Prop :=
  ∀ (s : State) (rest : List EnvEvent), s.cfg.admitted = true → s.env = .reset :: rest →
    step s = .next
      { cfg := s.cfg, mode := .boot, faultCode := .none, faultOp := 0, faultPort := .main, irqEn := false,
        cfgDone := false, clock := 0, slot := List.replicate s.cfg.fifoDepth ⟨0, 0, 0, 0⟩, head := 0, hwrap := false,
        tail := 0, twrap := false,
        filt := List.replicate s.cfg.numFilters { valid := false, ext := false, id := 0, mask := 0 },
        errFlag := false, errCode := 0,
        sig := List.replicate s.cfg.numSignals { valid := false, value := 0, srcExt := false, srcId := 0, ts := 0 },
        gauge := List.replicate s.cfg.gauges.length
          { zstate := .unzeroed, cur := 0, tgt := 0, lastT := 0, phase := 0, pins := 0 },
        out := [], resMain := [], resIrq := [], env := rest, port := .main }

/-- A configuration that is not admitted runs no command: the model refuses every step on it. That the refusal is a step's
outcome is the model's choice (assumption log entry 5). -/
def Obligations.BadConfigurationRefused : Prop :=
  ∀ s : State, s.cfg.admitted = false → step s = .refused .badConfiguration

/-- The configurations the model runs are those within the bounds of R7 whose decode table meets R206 (a) to (c). -/
def Obligations.AdmittedConfigurations : Prop :=
  ∀ c : Config, c.admitted = true ↔
    (1 ≤ c.fifoDepth ∧ c.fifoDepth ≤ 65535) ∧ (1 ≤ c.numFilters ∧ c.numFilters ≤ 32) ∧
    (1 ≤ c.numSignals ∧ c.numSignals ≤ 65536) ∧ (1 ≤ c.gauges.length ∧ c.gauges.length ≤ 16) ∧
    (∀ e ∈ c.decodeTable,
      (e.ext = false → e.id.toNat < 2 ^ 11) ∧ e.fields ≠ [] ∧ (e.fields.map FieldDesc.sig).Nodup ∧
        (∀ x, e.sel = some x → x.off ≤ 7) ∧
        ∀ d ∈ e.fields, d.sig < c.numSignals ∧
          (∀ off, d.kind = .byte off → off ≤ 7) ∧ (∀ idx, d.kind = .word idx → idx ≤ 3) ∧
          (∀ off pos, d.kind = .bit off pos → off ≤ 7 ∧ pos ≤ 7)) ∧
    c.decodeTable.Pairwise (fun a b => a.id = b.id ∧ a.ext = b.ext →
      ∃ x y, a.sel = some x ∧ b.sel = some y ∧ x.off = y.off ∧ x.val ≠ y.val) ∧
    (∀ gc ∈ c.gauges,
      (gc.phaseLen = 4 ∨ gc.phaseLen = 8) ∧ (∀ t, gc.phaseTable = some t → t.length = gc.phaseLen) ∧
        1 ≤ gc.stepsPerRev ∧ gc.stepsPerRev ≤ 65535 ∧ gc.fullScale ≤ gc.stepsPerRev ∧ gc.stepDelay ≤ 65535 ∧
        gc.zeroRun ≤ 65535 ∧ ∀ x, gc.signal = some x → x < c.numSignals)

/-- The invariant holds after reset, for every admitted configuration and for the one State.reset uses, which is the model's
choice (assumption log entry 2). -/
def Obligations.InvariantAtReset : Prop :=
  (∀ c : Config, c.admitted = true → (State.resetWith c).Inv) ∧ State.reset.Inv

/-- Every step keeps the invariant, from every state that has it. -/
def Obligations.EveryStepKeepsInvariant : Prop :=
  ∀ s t : State, s.Inv → step s = .next t → t.Inv

/-! ## Faults and results -/

/-- R332: a command whose OP[5] names the other context than the port's raises WRONG_CONTEXT. -/
def Obligations.WrongContextFaults : Prop :=
  ∀ (i : Instr) (s : State), s.mode.accepting = true →
    ((s.port = .main ∧ i.opcode.code.getLsbD 5 = true) ∨ (s.port = .irq ∧ i.opcode.code.getLsbD 5 = false)) →
      exec i s = .next { s with mode := .faulted, faultCode := .wrongContext, faultOp := i.opcode.code,
                                faultPort := s.port }

/-- R325: a gated-off command is not accepted and nothing changes: the CAN-side commands while IRQ_EN = 0, CLK.TICK outside RUN.
A command on the MAIN port is never gated. -/
def Obligations.GatedCommandsNotAccepted : Prop :=
  (∀ (f : Frame) (s : State), s.port = .irq → s.irqEn = false →
      exec (.fifoPush f) s = .next s ∧ exec (.canRx f) s = .next s) ∧
    (∀ (slot : BitVec 5) (code : Word) (s : State), s.port = .irq → s.irqEn = false →
      exec (.canTxdone slot) s = .next s ∧ exec (.canBuserr code) s = .next s) ∧
    (∀ s : State, s.port = .irq → s.mode ≠ .run → exec .clkTick s = .next s) ∧
    ∀ (i : Instr) (s : State), s.mode.accepting = true → s.port = .main → i.opcode.context = .main →
      exec i s ≠ .next s

/-- R322: a command that raises a fault changes nothing but MODE and the fault record, which names its code, its OP and its
port; from then on no command on either port is accepted, so the record stays; and the code is one that the table of fault
codes lists for the command. The codes are encoded 0x0 to 0xC in the order of that table, FAULTED is MODE 3, and the port
is 0 for MAIN and 1 for IRQ. -/
def Obligations.FaultChangesOnlyTheRecord : Prop :=
  (∀ (i : Instr) (s t : State), exec i s = .next t → s.mode ≠ .faulted → t.mode = .faulted →
    t = { s with mode := .faulted, faultCode := t.faultCode, faultOp := i.opcode.code, faultPort := s.port } ∧
      t.faultCode ∈ faultsOf i.opcode ∧
      ∀ (j : Instr) (p : Port), exec j { t with port := p } = .next { t with port := p }) ∧
  FaultCode.none.bits = 0x0 ∧ FaultCode.illegalOp.bits = 0x1 ∧ FaultCode.wrongContext.bits = 0x2 ∧
  FaultCode.irqNotMasked.bits = 0x3 ∧ FaultCode.clockNotRunning.bits = 0x4 ∧ FaultCode.clockAlreadyInit.bits = 0x5 ∧
  FaultCode.badGaugeIndex.bits = 0x6 ∧ FaultCode.gaugeSequence.bits = 0x7 ∧ FaultCode.badSignalIndex.bits = 0x8 ∧
  FaultCode.badFrame.bits = 0x9 ∧ FaultCode.filterMismatch.bits = 0xA ∧ FaultCode.badFilterList.bits = 0xB ∧
  FaultCode.configTwice.bits = 0xC ∧ Mode.faulted.bits = 3 ∧ Port.main.bit = 0 ∧ Port.irq.bit = 1

/-- R126: an accepted command that does not fault delivers exactly one result record, on its own port; only FIFO.POP names V
and F, only TELEM.READ names S, only GAUGE.READ names Q, only the commands listed here name B and D, and a field a command
does not name is 0; a command that is not accepted or faults delivers none. -/
def Obligations.OneResultPerCommand : Prop :=
  ∀ (i : Instr) (s t : State), exec i s = .next t →
    (s.admits i.opcode = true → t.mode ≠ .faulted →
      ∃ r : Result,
        (s.port = .main → t.resMain = s.resMain ++ [r] ∧ t.resIrq = s.resIrq) ∧
        (s.port = .irq → t.resIrq = s.resIrq ++ [r] ∧ t.resMain = s.resMain) ∧
        (i.opcode ≠ .fifoPop → r.v = false ∧ r.f = Frame.zero) ∧
        (i.opcode ∉ [.fifoEmpty, .fifoFull, .canDispatch, .errDrain, .gaugeStep, .gaugeTrack, .fifoPush, .canRx] →
          r.b = false) ∧
        (i.opcode ∉ [.fifoCount, .errDrain, .clkRead] → r.d = 0) ∧
        (i.opcode ≠ .telemRead → r.s = SigRec.zero) ∧ (i.opcode ≠ .gaugeRead → r.q = GaugeRec.zero)) ∧
    (s.admits i.opcode = false ∨ t.mode = .faulted → t.resMain = s.resMain ∧ t.resIrq = s.resIrq)

/-- No command stops the model: in every state every command answers a next state. That a command which is not accepted, and
so has no step by the spec, is answered with the unchanged state is the model's choice (assumption log entries 1 and 9). -/
def Obligations.EveryCommandAnswers : Prop :=
  ∀ (i : Instr) (s : State), ∃ t, exec i s = .next t

/-! ## The FIFO commands (40_fifo.md) -/

/-- FIFO.PUSH: BAD_FRAME for a frame that is not well-formed; dropped with B = 0 and nothing changed where COUNT = N; else
stored at TAIL, TAIL and TWRAP advanced, B = 1. Nothing else changes. -/
def Obligations.FifoPushCompletes : Prop :=
  ∀ (f : Frame) (s : State), s.mode.accepting = true → s.port = .irq → s.irqEn = true →
    (f.wellFormed = false → exec (.fifoPush f) s = .next (s.takeFault .badFrame 0x20)) ∧
    (f.wellFormed = true → s.count = s.cfg.fifoDepth →
      exec (.fifoPush f) s = .next { s with resIrq := s.resIrq ++ [{ b := false }] }) ∧
    (f.wellFormed = true → s.count ≠ s.cfg.fifoDepth →
      exec (.fifoPush f) s = .next
        { s with
          slot := s.slot.set s.tail.toNat f
          tail := if s.tail.toNat + 1 = s.cfg.fifoDepth then 0 else s.tail + 1
          twrap := if s.tail.toNat + 1 = s.cfg.fifoDepth then !s.twrap else s.twrap
          resIrq := s.resIrq ++ [{ b := true }] })

/-- FIFO.POP: V = 0 and the zero frame where COUNT = 0, nothing changed; else V = 1 and the frame at HEAD, HEAD and HWRAP
advanced, the slot kept. Nothing else changes. -/
def Obligations.FifoPopCompletes : Prop :=
  ∀ s : State, s.mode.accepting = true → s.port = .main →
    (s.count = 0 → exec .fifoPop s = .next { s with resMain := s.resMain ++ [{ v := false, f := ⟨0, 0, 0, 0⟩ }] }) ∧
    (s.count ≠ 0 →
      exec .fifoPop s = .next
        { s with
          head := if s.head.toNat + 1 = s.cfg.fifoDepth then 0 else s.head + 1
          hwrap := if s.head.toNat + 1 = s.cfg.fifoDepth then !s.hwrap else s.hwrap
          resMain := s.resMain ++ [{ v := true, f := s.slot.getD s.head.toNat Frame.zero }] })

/-- FIFO.EMPTY, FIFO.FULL and FIFO.COUNT deliver what COUNT says and change nothing else. -/
def Obligations.FifoStatusReadsComplete : Prop :=
  ∀ s : State, s.mode.accepting = true → s.port = .main →
    exec .fifoEmpty s = .next { s with resMain := s.resMain ++ [{ b := decide (s.count = 0) }] } ∧
    exec .fifoFull s = .next { s with resMain := s.resMain ++ [{ b := decide (s.count = s.cfg.fifoDepth) }] } ∧
    exec .fifoCount s = .next { s with resMain := s.resMain ++ [{ d := BitVec.ofNat 32 s.count }] }

/-- FIFO.FLUSH: IRQ_NOT_MASKED while IRQ_EN = 1; else every slot is the zero frame and every pointer 0, so COUNT becomes 0.
Nothing else changes. -/
def Obligations.FifoFlushCompletes : Prop :=
  ∀ s : State, s.mode.accepting = true → s.port = .main →
    (s.irqEn = true → exec .fifoFlush s = .next (s.takeFault .irqNotMasked 0x04)) ∧
    (s.irqEn = false → ∃ t, exec .fifoFlush s = .next t ∧ t.count = 0 ∧
      t = { s with slot := List.replicate s.cfg.fifoDepth (Frame.mk 0 0 0 0), head := 0, hwrap := false,
                   tail := 0, twrap := false, resMain := s.resMain ++ [{}] })

/-! ## The CAN commands (41_can.md) -/

/-- CAN.CONFIG: the faults in their order, else entry k becomes the filter of slot k, every other slot is invalid, CFG_DONE
is set and CFG_OUT is emitted. Nothing else changes. -/
def Obligations.CanConfigCompletes : Prop :=
  ∀ (entries : List FilterEntry) (s : State), s.mode.accepting = true → s.port = .main →
    (s.cfg.numFilters < entries.length ∨ (∃ e ∈ entries, e.wellFormed = false) →
      exec (.canConfig entries) s = .next (s.takeFault .badFilterList 0x08)) ∧
    (entries.length ≤ s.cfg.numFilters → (∀ e ∈ entries, e.wellFormed = true) →
      (s.irqEn = true → exec (.canConfig entries) s = .next (s.takeFault .irqNotMasked 0x08)) ∧
      (s.irqEn = false → s.cfgDone = true →
        exec (.canConfig entries) s = .next (s.takeFault .configTwice 0x08)) ∧
      (s.irqEn = false → s.cfgDone = false → ∃ t, exec (.canConfig entries) s = .next t ∧
        t = { s with filt := t.filt, cfgDone := true, out := s.out ++ [.cfgOut entries.length entries],
                     resMain := s.resMain ++ [{}] } ∧
        t.filt.length = s.cfg.numFilters ∧
        (∀ (k : Nat) (e : FilterEntry), entries[k]? = some e → t.filt[k]? = some ⟨true, e.ext, e.id, e.mask⟩) ∧
        ∀ k : Nat, entries.length ≤ k → k < s.cfg.numFilters → t.filt[k]? = some ⟨false, false, 0, 0⟩))

/-- CAN.RX: BAD_FRAME (SLOT < M included), then FILTER_MISMATCH against the filter of the frame's own slot, else queued or
dropped as FIFO.PUSH does. Nothing else changes. -/
def Obligations.CanRxCompletes : Prop :=
  ∀ (f : Frame) (s : State), s.mode.accepting = true → s.port = .irq → s.irqEn = true →
    (f.wellFormed = false ∨ s.cfg.numFilters ≤ f.slot.toNat →
      exec (.canRx f) s = .next (s.takeFault .badFrame 0x21)) ∧
    (f.wellFormed = true → f.slot.toNat < s.cfg.numFilters →
      (filterMatch (s.filtAt f.slot.toNat) f = false →
        exec (.canRx f) s = .next (s.takeFault .filterMismatch 0x21)) ∧
      (filterMatch (s.filtAt f.slot.toNat) f = true → s.count = s.cfg.fifoDepth →
        exec (.canRx f) s = .next { s with resIrq := s.resIrq ++ [{ b := false }] }) ∧
      (filterMatch (s.filtAt f.slot.toNat) f = true → s.count ≠ s.cfg.fifoDepth →
        exec (.canRx f) s = .next
          { s with
            slot := s.slot.set s.tail.toNat f
            tail := if s.tail.toNat + 1 = s.cfg.fifoDepth then 0 else s.tail + 1
            twrap := if s.tail.toNat + 1 = s.cfg.fifoDepth then !s.twrap else s.twrap
            resIrq := s.resIrq ++ [{ b := true }] }))

/-- CAN.DISPATCH: BAD_FRAME, then CLOCK_NOT_RUNNING; B = 0 and nothing changed where no entry matches (R203); else B = 1 and
exactly the in-range fields of the matching entry write their signals. Nothing else changes. -/
def Obligations.CanDispatchCompletes : Prop :=
  ∀ (f : Frame) (s : State), s.cfg.admitted = true → s.sig.length = s.cfg.numSignals →
    s.mode.accepting = true → s.port = .main →
    (f.wellFormed = false → exec (.canDispatch f) s = .next (s.takeFault .badFrame 0x09)) ∧
    (f.wellFormed = true → s.mode ≠ .run → exec (.canDispatch f) s = .next (s.takeFault .clockNotRunning 0x09)) ∧
    (f.wellFormed = true → s.mode = .run → (∀ e ∈ s.cfg.decodeTable, entryMatch e f = false) →
      exec (.canDispatch f) s = .next { s with resMain := s.resMain ++ [{ b := false }] }) ∧
    (f.wellFormed = true → s.mode = .run → ∀ e ∈ s.cfg.decodeTable, entryMatch e f = true →
      ∃ t, exec (.canDispatch f) s = .next t ∧
        t = { s with sig := t.sig, resMain := s.resMain ++ [{ b := true }] } ∧
        t.sig.length = s.sig.length ∧
        (∀ d ∈ e.fields, inRange d.kind f = true →
          t.sigAt d.sig = { valid := true, value := fieldValue d.kind f, srcExt := f.ext, srcId := f.id,
                            ts := s.clock }) ∧
        ∀ x, (∀ d ∈ e.fields, d.sig = x → inRange d.kind f = false) → t.sigAt x = s.sigAt x)

/-- CAN.TRANSMIT: BAD_FRAME for a frame that is not well-formed, else TX_REQ with the identifier, EXT, DLC and the bytes
below DLC; CAN.TXDONE changes nothing; CAN.BUSERR sets the latch to its code. Nothing else changes. -/
def Obligations.CanTransportCommandsComplete : Prop :=
  (∀ (f : Frame) (s : State), s.mode.accepting = true → s.port = .main →
    (f.wellFormed = false → exec (.canTransmit f) s = .next (s.takeFault .badFrame 0x0A)) ∧
    (f.wellFormed = true →
      exec (.canTransmit f) s = .next
        { s with out := s.out ++ [.txReq f.id f.ext f.dlc ((List.range f.dlc.toNat).map f.byte)],
                 resMain := s.resMain ++ [{}] })) ∧
  (∀ (slot : BitVec 5) (s : State), s.mode.accepting = true → s.port = .irq → s.irqEn = true →
    exec (.canTxdone slot) s = .next { s with resIrq := s.resIrq ++ [{}] }) ∧
  ∀ (code : Word) (s : State), s.mode.accepting = true → s.port = .irq → s.irqEn = true →
    exec (.canBuserr code) s = .next { s with errFlag := true, errCode := code, resIrq := s.resIrq ++ [{}] }

/-- ERR.DRAIN: B and D are the latch as it was; where the flag was set DIAG_ERR is emitted and the flag cleared, ERR_CODE
kept; where it was clear nothing is emitted. Nothing else changes. -/
def Obligations.ErrDrainCompletes : Prop :=
  ∀ s : State, s.mode.accepting = true → s.port = .main →
    (s.errFlag = true →
      exec .errDrain s = .next
        { s with errFlag := false, out := s.out ++ [.diagErr s.errCode],
                 resMain := s.resMain ++ [{ b := true, d := s.errCode }] }) ∧
    (s.errFlag = false →
      exec .errDrain s = .next { s with resMain := s.resMain ++ [{ b := false, d := s.errCode }] })

/-- TELEM.READ: BAD_SIGNAL_INDEX for an index of S or more, else the signal's record. Nothing else changes. -/
def Obligations.TelemReadCompletes : Prop :=
  ∀ (x : Half) (s : State), s.mode.accepting = true → s.port = .main →
    (s.cfg.numSignals ≤ x.toNat → exec (.telemRead x) s = .next (s.takeFault .badSignalIndex 0x0C)) ∧
    (x.toNat < s.cfg.numSignals →
      exec (.telemRead x) s = .next { s with resMain := s.resMain ++ [{ s := s.sigAt x.toNat }] })

/-! ## The gauge commands (42_stepper.md) -/

/-- GAUGE.ZERO: the faults in their order, else the gauge is at its reference, or a hard-stop run of ZERO_RUN_g steps toward
0 begins. PINS and every other element stay. -/
def Obligations.GaugeZeroCompletes : Prop :=
  ∀ (g : BitVec 4) (s : State), s.mode.accepting = true → s.port = .main →
    (s.cfg.gauges.length ≤ g.toNat → exec (.gaugeZero g) s = .next (s.takeFault .badGaugeIndex 0x10)) ∧
    (g.toNat < s.cfg.gauges.length → s.mode ≠ .run →
      exec (.gaugeZero g) s = .next (s.takeFault .clockNotRunning 0x10)) ∧
    (g.toNat < s.cfg.gauges.length → s.mode = .run → (s.gaugeAt g.toNat).zstate ≠ .unzeroed →
      exec (.gaugeZero g) s = .next (s.takeFault .gaugeSequence 0x10)) ∧
    (g.toNat < s.cfg.gauges.length → s.mode = .run → (s.gaugeAt g.toNat).zstate = .unzeroed →
      ((s.cfg.gaugeCfg g.toNat).zeroMode = .assume ∨ (s.cfg.gaugeCfg g.toNat).zeroRun = 0 →
        exec (.gaugeZero g) s = .next
          { s with
            gauge := s.gauge.set g.toNat
              { zstate := .ready, cur := 0, tgt := 0, lastT := s.clock, phase := 0, pins := (s.gaugeAt g.toNat).pins }
            resMain := s.resMain ++ [{}] }) ∧
      ((s.cfg.gaugeCfg g.toNat).zeroMode = .hardstop → (s.cfg.gaugeCfg g.toNat).zeroRun ≠ 0 →
        exec (.gaugeZero g) s = .next
          { s with
            gauge := s.gauge.set g.toNat
              { zstate := .zeroing, cur := BitVec.ofNat 16 (s.cfg.gaugeCfg g.toNat).zeroRun, tgt := 0,
                lastT := s.clock, phase := 0, pins := (s.gaugeAt g.toNat).pins }
            resMain := s.resMain ++ [{}] }))

/-- GAUGE.SETTGT: BAD_GAUGE_INDEX, then GAUGE_SEQUENCE, else TGT is TargetOf of the signed percent. Nothing else changes. -/
def Obligations.GaugeSettgtCompletes : Prop :=
  ∀ (g : BitVec 4) (p : Half) (s : State), s.mode.accepting = true → s.port = .main →
    (s.cfg.gauges.length ≤ g.toNat → exec (.gaugeSettgt g p) s = .next (s.takeFault .badGaugeIndex 0x11)) ∧
    (g.toNat < s.cfg.gauges.length → (s.gaugeAt g.toNat).zstate ≠ .ready →
      exec (.gaugeSettgt g p) s = .next (s.takeFault .gaugeSequence 0x11)) ∧
    (g.toNat < s.cfg.gauges.length → (s.gaugeAt g.toNat).zstate = .ready →
      exec (.gaugeSettgt g p) s = .next
        { s with
          gauge := s.gauge.set g.toNat
            { s.gaugeAt g.toNat with
              tgt := BitVec.ofInt 16 ((max 0 (min p.toInt 100) * (s.cfg.gaugeCfg g.toNat).fullScale) / 100) }
          resMain := s.resMain ++ [{}] })

/-- GAUGE.STEP: the faults in their order; Idle releases the coils where HOLD_g = 0; too early changes nothing; else CUR
moves by one toward TGT and PHASE by one table entry, LAST_T is CLOCK, PINS the pattern of the new PHASE or released,
and the step that ends a hard-stop run makes the gauge READY. Nothing else changes. -/
def Obligations.GaugeStepCompletes : Prop :=
  ∀ (g : BitVec 4) (s : State) (r : GaugeRec) (gc : GaugeCfg), s.mode.accepting = true → s.port = .main →
    r = s.gaugeAt g.toNat → gc = s.cfg.gaugeCfg g.toNat →
    (s.cfg.gauges.length ≤ g.toNat → exec (.gaugeStep g) s = .next (s.takeFault .badGaugeIndex 0x12)) ∧
    (g.toNat < s.cfg.gauges.length → s.mode ≠ .run →
      exec (.gaugeStep g) s = .next (s.takeFault .clockNotRunning 0x12)) ∧
    (g.toNat < s.cfg.gauges.length → s.mode = .run → r.zstate = .unzeroed →
      exec (.gaugeStep g) s = .next (s.takeFault .gaugeSequence 0x12)) ∧
    (g.toNat < s.cfg.gauges.length → s.mode = .run → r.zstate ≠ .unzeroed →
      (r.cur = r.tgt →
        exec (.gaugeStep g) s = .next
          { s with
            gauge := s.gauge.set g.toNat { r with pins := if gc.hold then r.pins else 0 }
            resMain := s.resMain ++ [{ b := false }] }) ∧
      (r.cur ≠ r.tgt → (s.clock - r.lastT).toNat < gc.stepDelay →
        exec (.gaugeStep g) s = .next { s with resMain := s.resMain ++ [{ b := false }] }) ∧
      (r.cur ≠ r.tgt → gc.stepDelay ≤ (s.clock - r.lastT).toNat →
        ∀ (cur : Half) (phase : BitVec 3),
          cur = (if r.cur.toNat < r.tgt.toNat then r.cur + 1 else r.cur - 1) →
          phase = BitVec.ofNat 3 ((if r.cur.toNat < r.tgt.toNat then r.phase.toNat + 1
            else r.phase.toNat + gc.phaseLen - 1) % gc.phaseLen) →
          exec (.gaugeStep g) s = .next
            { s with
              gauge := s.gauge.set g.toNat
                { zstate := if cur = r.tgt ∧ r.zstate = .zeroing then .ready else r.zstate
                  cur := cur
                  tgt := r.tgt
                  lastT := s.clock
                  phase := phase
                  pins := if cur = r.tgt ∧ gc.hold = false then 0 else gc.phases.getD phase.toNat 0 }
              resMain := s.resMain ++ [{ b := true }] }))

/-- GAUGE.TRACK: BAD_GAUGE_INDEX, then GAUGE_SEQUENCE; B = 0 and nothing changed where no signal is bound or it was never
written; else TGT is TargetOf of MAP_g of the signal's value and B = 1. Nothing else changes. -/
def Obligations.GaugeTrackCompletes : Prop :=
  ∀ (g : BitVec 4) (s : State) (gc : GaugeCfg), s.mode.accepting = true → s.port = .main →
    gc = s.cfg.gaugeCfg g.toNat →
    (s.cfg.gauges.length ≤ g.toNat → exec (.gaugeTrack g) s = .next (s.takeFault .badGaugeIndex 0x13)) ∧
    (g.toNat < s.cfg.gauges.length → (s.gaugeAt g.toNat).zstate ≠ .ready →
      exec (.gaugeTrack g) s = .next (s.takeFault .gaugeSequence 0x13)) ∧
    (g.toNat < s.cfg.gauges.length → (s.gaugeAt g.toNat).zstate = .ready →
      (gc.signal = none ∨ (∃ x, gc.signal = some x ∧ (s.sigAt x).valid = false) →
        exec (.gaugeTrack g) s = .next { s with resMain := s.resMain ++ [{ b := false }] }) ∧
      ∀ x, gc.signal = some x → (s.sigAt x).valid = true →
        exec (.gaugeTrack g) s = .next
          { s with
            gauge := s.gauge.set g.toNat
              { s.gaugeAt g.toNat with
                tgt := BitVec.ofInt 16 ((max 0 (min (gc.map.eval (s.sigAt x).value).toInt 100) * gc.fullScale) / 100) }
            resMain := s.resMain ++ [{ b := true }] })

/-- GAUGE.READ: BAD_GAUGE_INDEX, else the gauge's record, in every mode that accepts commands. Nothing else changes. -/
def Obligations.GaugeReadCompletes : Prop :=
  ∀ (g : BitVec 4) (s : State), s.mode.accepting = true → s.port = .main →
    (s.cfg.gauges.length ≤ g.toNat → exec (.gaugeRead g) s = .next (s.takeFault .badGaugeIndex 0x14)) ∧
    (g.toNat < s.cfg.gauges.length →
      exec (.gaugeRead g) s = .next { s with resMain := s.resMain ++ [{ q := s.gaugeAt g.toNat }] })

/-! ## The clock and interrupt-control commands (43_system.md) -/

/-- CLK.INIT: CLOCK_ALREADY_INIT outside BOOT, else RUN or HALTED; CLOCK and everything else stay. -/
def Obligations.ClkInitCompletes : Prop :=
  ∀ s : State, s.port = .main →
    (s.mode = .boot → exec (.clkInit true) s = .next { s with mode := .run, resMain := s.resMain ++ [{}] }) ∧
    (s.mode = .boot → exec (.clkInit false) s = .next { s with mode := .halted, resMain := s.resMain ++ [{}] }) ∧
    (s.mode = .run → ∀ ok, exec (.clkInit ok) s = .next (s.takeFault .clockAlreadyInit 0x18))

/-- CLK.READ delivers CLOCK; CLK.TICK in RUN adds 1 to CLOCK modulo 2^32, whatever IRQ_EN. Nothing else changes. -/
def Obligations.ClockCommandsComplete : Prop :=
  ∀ s : State,
    (s.mode.accepting = true → s.port = .main →
      exec .clkRead s = .next { s with resMain := s.resMain ++ [{ d := s.clock }] }) ∧
    (s.mode = .run → s.port = .irq →
      exec .clkTick s = .next
        { s with clock := BitVec.ofNat 32 ((s.clock.toNat + 1) % 2 ^ 32), resIrq := s.resIrq ++ [{}] })

/-- IRQ.ENABLE: CLOCK_NOT_RUNNING outside RUN, else IRQ_EN is 1; IRQ.DISABLE clears it in every mode that accepts commands.
Nothing else changes. -/
def Obligations.IrqControlCompletes : Prop :=
  ∀ s : State, s.port = .main →
    (s.mode = .boot → exec .irqEnable s = .next (s.takeFault .clockNotRunning 0x1A)) ∧
    (s.mode = .run → exec .irqEnable s = .next { s with irqEn := true, resMain := s.resMain ++ [{}] }) ∧
    (s.mode.accepting = true → exec .irqDisable s = .next { s with irqEn := false, resMain := s.resMain ++ [{}] })

/-! ## The FIFO across the two contexts -/

/-- R154 over runs: the FIFO is a queue. Along any run the pushes with B = 1, the pops with V = 1 and the flushes and resets,
replayed on the frames held at the start, give the frames held at the end, every pop being of the oldest frame. -/
def Obligations.FifoRefinesQueue : Prop :=
  ∀ (k : Nat) (s t : State), s.Inv → stepN k s = some t → replay (runEvents k s) s.queued = some t.queued

/-- The order clause of R154: in any run from an empty FIFO without a flush or reset, the frames returned by pops with V
= 1, followed by the frames still held, are the frames of the pushes with B = 1, in push order. -/
def Obligations.FifoOrder : Prop :=
  ∀ (k : Nat) (s t : State), s.Inv → s.count = 0 → stepN k s = some t → FifoEvent.cleared ∉ runEvents k s →
    poppedFrames (runEvents k s) ++ t.queued = pushedFrames (runEvents k s)

/-- R155: COUNT ≤ N after every run from reset, for every admitted configuration and environment; a push into a full FIFO leaves
COUNT = N, returns B = 0 and changes no slot, by FIFO.PUSH and by CAN.RX. -/
def Obligations.FifoCapacity : Prop :=
  (∀ (k : Nat) (c : Config) (env : List EnvEvent) (t : State), c.admitted = true →
      stepN k { State.resetWith c with env := env } = some t → t.count ≤ c.fifoDepth) ∧
    ∀ (i : Instr) (f : Frame) (s t : State), i = .fifoPush f ∨ i = .canRx f →
      s.admits i.opcode = true → s.count = s.cfg.fifoDepth → exec i s = .next t → t.mode ≠ .faulted →
      t.count = t.cfg.fifoDepth ∧ t.resIrq = s.resIrq ++ [{ b := false }] ∧ t.slot = s.slot

/-- The state each context owns, after R331: a command on the IRQ port writes only TAIL, TWRAP, SLOT at TAIL, the error
latch and CLOCK, besides the fault entry and its result, and sets ERR_FLAG but never clears it; one on the MAIN port
writes none of CLOCK, ERR_CODE and the IRQ results, sets no ERR_FLAG, and writes TAIL, TWRAP and SLOT only as FIFO.FLUSH
with IRQ_EN = 0. -/
def Obligations.ContextOwnership : Prop :=
  ∀ (i : Instr) (s t : State), exec i s = .next t →
    (s.port = .irq →
      t = { s with slot := t.slot, tail := t.tail, twrap := t.twrap, errFlag := t.errFlag, errCode := t.errCode,
                   clock := t.clock, mode := t.mode, faultCode := t.faultCode, faultOp := t.faultOp,
                   faultPort := t.faultPort, resIrq := t.resIrq } ∧
        (t.mode = s.mode ∨ t.mode = .faulted) ∧ (s.errFlag = true → t.errFlag = true) ∧
        t.slot.length = s.slot.length ∧ ∀ k : Nat, k ≠ s.tail.toNat → t.slot[k]? = s.slot[k]?) ∧
    (s.port = .main →
      t.clock = s.clock ∧ t.errCode = s.errCode ∧ t.resIrq = s.resIrq ∧ (t.errFlag = true → s.errFlag = true) ∧
        ((t.slot = s.slot ∧ t.tail = s.tail ∧ t.twrap = s.twrap) ∨ (i = .fifoFlush ∧ s.irqEn = false)))

/-- After R161, command by command: what one context reads of COUNT goes stale in one direction: an IRQ-port command
never lowers COUNT, a MAIN-port command never raises it. -/
def Obligations.CountStaleOneWay : Prop :=
  ∀ (i : Instr) (s t : State), s.Inv → exec i s = .next t →
    (s.port = .irq → s.count ≤ t.count ∧ t.count ≤ s.cfg.fifoDepth) ∧ (s.port = .main → t.count ≤ s.count)

/-- While IRQ_EN = 0 no command on the IRQ port touches the FIFO, the error latch or the output history; CLK.TICK may still
advance CLOCK. -/
def Obligations.MaskedWindow : Prop :=
  ∀ (s t : State) (cmd : Word) (side : List Word) (rest : List EnvEvent),
    s.irqEn = false → s.env = .offer .irq cmd side :: rest → step s = .next t →
      t.slot = s.slot ∧ t.head = s.head ∧ t.hwrap = s.hwrap ∧ t.tail = s.tail ∧ t.twrap = s.twrap ∧
        t.errFlag = s.errFlag ∧ t.errCode = s.errCode ∧ t.out = s.out

/-! ## Filters, dispatch and the error latch -/

/-- R190, R194: a valid filter matches a frame of its own EXT kind exactly if the identifiers agree under the mask; so
the filter (0x700, 0x7FC) of standard identifiers accepts, of the well-formed frames, exactly the standard identifiers
0x700 to 0x703. R122: the fields of a FILTER entry, and that it is well-formed exactly if its reserved bits are 0 and, for
EXT = 0, ID[28:11] and MASK[28:11] are 0. -/
def Obligations.FilterSemantics : Prop :=
  (∀ (r : FilterRec) (f : Frame), filterMatch r f = true ↔
      r.valid = true ∧ r.ext = f.ext ∧ f.fw0.extractLsb' 0 29 &&& r.mask = r.id &&& r.mask) ∧
    (∀ f : Frame, f.wellFormed = true →
      (filterMatch ⟨true, false, 0x700, 0x7FC⟩ f = true ↔
        f.ext = false ∧ 0x700 ≤ f.id.toNat ∧ f.id.toNat ≤ 0x703)) ∧
    ∀ e : FilterEntry,
      e.id = e.ew0.extractLsb' 0 29 ∧ e.ext = e.ew0.getLsbD 29 ∧ e.mask = e.ew1.extractLsb' 0 29 ∧
      (e.wellFormed = true ↔
        e.ew0.extractLsb' 30 2 = 0 ∧ e.ew1.extractLsb' 29 3 = 0 ∧
          (e.ew0.getLsbD 29 = false → e.ew0.extractLsb' 11 18 = 0 ∧ e.ew1.extractLsb' 11 18 = 0))

/-- R81, R83: the byte view, the packing of the operand words and the little-endian word view of a payload; and R125: BYTE and
BIT fields are zero-extended, a WORD field is the word view, none is sign-extended. R120: the fields of a FRAME record; the
conditions (a) to (d) under which it is well-formed; and R201: BYTE and BIT fields are in range exactly below DLC, a WORD
field exactly where both its bytes are. -/
def Obligations.PayloadViews : Prop :=
  Frame.zero = ⟨0, 0, 0, 0⟩ ∧ ∀ f : Frame,
    (f.id = f.fw0.extractLsb' 0 29 ∧ f.ext = f.fw0.getLsbD 29 ∧ f.dlc = f.fw1.extractLsb' 0 4 ∧
      f.slot = f.fw1.extractLsb' 4 5) ∧
    (f.wellFormed = true ↔
      f.fw0.extractLsb' 30 2 = 0 ∧ (f.fw0.getLsbD 29 = false → f.fw0.extractLsb' 11 18 = 0) ∧
        (f.fw1.extractLsb' 0 4).toNat ≤ 8 ∧ f.fw1.extractLsb' 9 23 = 0) ∧
    (∀ off, inRange (.byte off) f = true ↔ off < (f.fw1.extractLsb' 0 4).toNat) ∧
    (∀ off pos, inRange (.bit off pos) f = true ↔ off < (f.fw1.extractLsb' 0 4).toNat) ∧
    (∀ idx, inRange (.word idx) f = true ↔ 2 * idx + 1 < (f.fw1.extractLsb' 0 4).toNat) ∧
    (∀ i < 4, f.byte i = f.fw2.extractLsb' (8 * i) 8 ∧ f.byte (i + 4) = f.fw3.extractLsb' (8 * i) 8) ∧
    (∀ k < 4, (f.word k).toNat = (f.byte (2 * k)).toNat + 256 * (f.byte (2 * k + 1)).toNat) ∧
    f.word 0 = f.fw2.extractLsb' 0 16 ∧ f.word 1 = f.fw2.extractLsb' 16 16 ∧
    f.word 2 = f.fw3.extractLsb' 0 16 ∧ f.word 3 = f.fw3.extractLsb' 16 16 ∧
    (∀ off, (fieldValue (.byte off) f).toNat = (f.byte off).toNat) ∧
    (∀ idx, (fieldValue (.word idx) f).toNat = (f.byte (2 * idx)).toNat + 256 * (f.byte (2 * idx + 1)).toNat) ∧
    ∀ off pos, (fieldValue (.bit off pos) f).toNat = if (f.byte off).getLsbD pos then 1 else 0

/-- R200: an entry matches a frame exactly if EXT and ID are the frame's and its selector, where it has one, names a byte below
DLC that holds its value; and in an admitted decode table at most one entry matches a frame. -/
def Obligations.OneEntryPerFrame : Prop :=
  (∀ (e : DecodeEntry) (f : Frame), entryMatch e f = true ↔
    e.ext = f.fw0.getLsbD 29 ∧ e.id = f.fw0.extractLsb' 0 29 ∧
      ∀ x, e.sel = some x → x.off < (f.fw1.extractLsb' 0 4).toNat ∧ f.byte x.off = x.val) ∧
  ∀ (c : Config) (f : Frame), c.admitted = true →
    ∀ e ∈ c.decodeTable, ∀ e' ∈ c.decodeTable, entryMatch e f = true → entryMatch e' f = true → e = e'

/-- R205: dispatching a frame again, at any CLOCK, leaves VALID, VALUE, SRC_EXT and SRC_ID of every signal as they are; TS of
the signals it writes is the CLOCK of the later dispatch, so at one CLOCK the store is unchanged. -/
def Obligations.DispatchIdempotent : Prop :=
  ∀ (f : Frame) (s t u : State) (clock : Word),
    s.Inv → s.mode = .run → s.port = .main → f.wellFormed = true →
    exec (.canDispatch f) s = .next t → exec (.canDispatch f) { t with clock := clock } = .next u →
      (∀ x, (u.sigAt x).valid = (t.sigAt x).valid ∧ (u.sigAt x).value = (t.sigAt x).value ∧
        (u.sigAt x).srcExt = (t.sigAt x).srcExt ∧ (u.sigAt x).srcId = (t.sigAt x).srcId) ∧
      (∀ e ∈ s.cfg.decodeTable, entryMatch e f = true → ∀ d ∈ e.fields, inRange d.kind f = true →
        (u.sigAt d.sig).ts = clock) ∧
      (clock = s.clock → u.sig = t.sig)

/-- After R369: two bus errors without a drain between them leave only the later code, and the next drain emits one DIAG_ERR. -/
def Obligations.ErrorsCoalesce : Prop :=
  ∀ (s t u v : State) (a b : Word), s.mode.accepting = true → s.irqEn = true → s.port = .irq →
    exec (.canBuserr a) s = .next t → exec (.canBuserr b) t = .next u → exec .errDrain { u with port := .main } = .next v →
      v.out = s.out ++ [.diagErr b] ∧ v.errFlag = false ∧ v.errCode = b ∧
        v.resMain = s.resMain ++ [{ b := true, d := b }]

/-! ## Gauges -/

/-- R244: TargetOf clamps its percent to 0..100 and scales it to FULL_SCALE_g with floor rounding: it lies in 0..FULL_SCALE_g,
never falls as the percent rises, is 0 at or below 0 and FULL_SCALE_g at or above 100. -/
def Obligations.TargetMapping : Prop :=
  ∀ gc : GaugeCfg,
    (∀ p, gc.targetOf p ≤ gc.fullScale) ∧ (∀ p q, p ≤ q → gc.targetOf p ≤ gc.targetOf q) ∧
    (∀ p ≤ 0, gc.targetOf p = 0) ∧ (∀ p, 100 ≤ p → gc.targetOf p = gc.fullScale) ∧
    ∀ n : Nat, n ≤ 100 → gc.targetOf n = n * gc.fullScale / 100

/-- The lifecycle of a gauge under commands, after R240; ZSTATE is encoded UNZEROED = 0, ZEROING = 1, READY = 2. An
offered command leaves ZSTATE as it is, but GAUGE.ZERO of an UNZEROED gauge, and the GAUGE.STEP that completes a ZEROING
gauge's run; no command returns a gauge to UNZEROED. -/
def Obligations.GaugeLifecycle : Prop :=
  (ZState.unzeroed.bits = 0 ∧ ZState.zeroing.bits = 1 ∧ ZState.ready.bits = 2) ∧
  ∀ (i : Instr) (s t : State) (g : Nat), exec i s = .next t →
    (t.gaugeAt g).zstate = (s.gaugeAt g).zstate ∨
    ((∃ h : BitVec 4, i = .gaugeZero h ∧ h.toNat = g) ∧ (s.gaugeAt g).zstate = .unzeroed ∧
      ((t.gaugeAt g).zstate = .ready ∨ (t.gaugeAt g).zstate = .zeroing)) ∨
    ((∃ h : BitVec 4, i = .gaugeStep h ∧ h.toNat = g) ∧ (s.gaugeAt g).zstate = .zeroing ∧
      (t.gaugeAt g).zstate = .ready ∧ (t.gaugeAt g).cur = (t.gaugeAt g).tgt)

/-- After R247: only GAUGE.STEP moves the motor: it is the only command that changes PHASE or PINS, and the only one
that changes CUR after zeroing. -/
def Obligations.OnlyStepMoves : Prop :=
  ∀ (i : Instr) (s t : State) (g : Nat), s.Inv → exec i s = .next t →
    ((t.gaugeAt g).phase ≠ (s.gaugeAt g).phase ∨ (t.gaugeAt g).pins ≠ (s.gaugeAt g).pins →
      ∃ h : BitVec 4, i = .gaugeStep h ∧ h.toNat = g) ∧
    ((t.gaugeAt g).cur ≠ (s.gaugeAt g).cur → (s.gaugeAt g).zstate ≠ .unzeroed →
      ∃ h : BitVec 4, i = .gaugeStep h ∧ h.toNat = g)

/-- R255, first three points: along any run that keeps the target T of a gauge that was at C, as many GAUGE.STEP commands
return B = 1 as |T − C| has shrunk by, so exactly |T − C| of them when CUR = T; and CUR stays between C and T. And it makes
progress: in RUN, an offered GAUGE.STEP of a zeroed gauge with CUR ≠ TGT and STEP_DELAY_g elapsed moves it, one step nearer
to its target. -/
def Obligations.GaugeConverges : Prop :=
  (∀ (k g : Nat) (s t : State), s.Inv → (s.gaugeAt g).zstate = .ready → s.holdsTarget g k → stepN k s = some t →
    moves g k s + (t.gaugeAt g).distance = (s.gaugeAt g).distance ∧
    ((s.gaugeAt g).cur.toNat ≤ (s.gaugeAt g).tgt.toNat →
      (s.gaugeAt g).cur.toNat ≤ (t.gaugeAt g).cur.toNat ∧ (t.gaugeAt g).cur.toNat ≤ (s.gaugeAt g).tgt.toNat) ∧
    ((s.gaugeAt g).tgt.toNat ≤ (s.gaugeAt g).cur.toNat →
      (s.gaugeAt g).tgt.toNat ≤ (t.gaugeAt g).cur.toNat ∧ (t.gaugeAt g).cur.toNat ≤ (s.gaugeAt g).cur.toNat)) ∧
  ∀ (g : BitVec 4) (s : State) (cmd : Word) (side : List Word) (rest : List EnvEvent), s.Inv →
    s.env = .offer .main cmd side :: rest → decode cmd side = .ok (.gaugeStep g) → s.mode = .run →
    g.toNat < s.cfg.gauges.length → (s.gaugeAt g.toNat).zstate ≠ .unzeroed →
    (s.gaugeAt g.toNat).cur ≠ (s.gaugeAt g.toNat).tgt →
    (s.cfg.gaugeCfg g.toNat).stepDelay ≤ (s.clock - (s.gaugeAt g.toNat).lastT).toNat →
      movesGauge g.toNat s = true ∧
        ∃ t, step s = .next t ∧ (t.gaugeAt g.toNat).tgt = (s.gaugeAt g.toNat).tgt ∧
          (t.gaugeAt g.toNat).distance + 1 = (s.gaugeAt g.toNat).distance

/-- R255, fourth point: after a step of the gauge that moved, or after its zeroing, the next GAUGE.STEP that moves it
sees a CLOCK at least STEP_DELAY_g later (modulo 2^32), whatever runs in between without a reset. -/
def Obligations.StepsAreRateLimited : Prop :=
  ∀ (k g : Nat) (s t u : State), s.Inv → step s = .next t →
    (movesGauge g s = true ∨ ((s.gaugeAt g).zstate = .unzeroed ∧ (t.gaugeAt g).zstate ≠ .unzeroed)) →
    t.noResetFor k = true → stepN k t = some u → moves g k t = 0 → movesGauge g u = true →
      (s.cfg.gaugeCfg g).stepDelay ≤ (u.clock - s.clock).toNat

/-- R255, last point: after the step that reaches the target, while the target is kept, no GAUGE.STEP returns B = 1 and PINS
stays as that step left it. -/
def Obligations.SettledGaugeStays : Prop :=
  ∀ (k g : Nat) (s t u : State), s.Inv → movesGauge g s = true → step s = .next t →
    (t.gaugeAt g).cur = (t.gaugeAt g).tgt → t.holdsTarget g k → stepN k t = some u →
      moves g k t = 0 ∧ (u.gaugeAt g).pins = (t.gaugeAt g).pins ∧ (u.gaugeAt g).cur = (t.gaugeAt g).cur

/-- No command on the IRQ port writes a gauge or a signal, after R259. -/
def Obligations.IrqLeavesGaugesAndSignals : Prop :=
  ∀ (s t : State) (cmd : Word) (side : List Word) (rest : List EnvEvent),
    s.env = .offer .irq cmd side :: rest → step s = .next t → t.gauge = s.gauge ∧ t.sig = s.sig

/-- Gauge commands, CAN.DISPATCH and TELEM.READ depend on nothing but the parameters, MODE, CLOCK, the signals and the gauges:
in two states that agree on these they have the same result and leave the same signals and gauges, whatever the FIFO,
the filters, the error latch, IRQ_EN and the output history hold (after R204 and R259). -/
def Obligations.GaugeCommandsSeeNoFifo : Prop :=
  ∀ (i : Instr) (s s' t t' : State),
    (usesGauge i.opcode = true ∨ i.opcode = .canDispatch ∨ i.opcode = .telemRead) →
    s.cfg = s'.cfg → s.mode = s'.mode → s.port = s'.port → s.clock = s'.clock → s.sig = s'.sig → s.gauge = s'.gauge →
    exec i s = .next t → exec i s' = .next t' →
      t.sig = t'.sig ∧ t.gauge = t'.gauge ∧ t.mode = t'.mode ∧ delivered s t = delivered s' t'

/-! ## Control state, configuration, output history -/

/-- R296 and the writers of R32, R34, R35: under any command CLOCK changes only by CLK.TICK and only by +1; MODE changes
only by CLK.INIT from BOOT or by a fault; IRQ_EN only by IRQ.ENABLE and IRQ.DISABLE; CFG_DONE only by CAN.CONFIG and
only to 1. MODE is encoded BOOT = 0, RUN = 1, HALTED = 2, FAULTED = 3. -/
def Obligations.ControlStateWriters : Prop :=
  (Mode.boot.bits = 0 ∧ Mode.run.bits = 1 ∧ Mode.halted.bits = 2 ∧ Mode.faulted.bits = 3) ∧
  ∀ (i : Instr) (s t : State), exec i s = .next t →
    (t.clock = s.clock ∨ (i = .clkTick ∧ s.mode = .run ∧ t.clock = s.clock + 1)) ∧
    (t.mode = s.mode ∨ t.mode = .faulted ∨
      (s.mode = .boot ∧ ((i = .clkInit true ∧ t.mode = .run) ∨ (i = .clkInit false ∧ t.mode = .halted)))) ∧
    (t.irqEn = s.irqEn ∨ (i = .irqEnable ∧ t.irqEn = true) ∨ (i = .irqDisable ∧ t.irqEn = false)) ∧
    (t.cfgDone = s.cfgDone ∨ ((∃ es, i = .canConfig es) ∧ t.cfgDone = true))

/-- R8: no step changes a parameter. -/
def Obligations.ParametersFixed : Prop :=
  ∀ (k : Nat) (s t : State), stepN k s = some t → t.cfg = s.cfg

/-- The output history is write-only: a command appends at most one event to it, and does the same whatever it holds
(after R10). -/
def Obligations.OutputHistoryWriteOnly : Prop :=
  ∀ (i : Instr) (s t : State), exec i s = .next t →
    ∃ es : List OutEvent, es.length ≤ 1 ∧ t.out = s.out ++ es ∧
      ∀ o : List OutEvent, exec i { s with out := o } = .next { t with out := o ++ es }

/-! ## Pseudo-commands -/

/-- After R128, BOOT aside: what the MAIN agent issues for POLL, DRAIN_ALL, STEP_ALL, TRACK_ALL and LOOP_ITER, given the
result `r` of its last command: a frame popped with V = 1 is dispatched, and V = 0 ends the POLL or the DRAIN_ALL. That
a pseudo-command is a list of tasks whose next command is computed from the last result is the model's choice
(assumption log entry 12). -/
def Obligations.PseudoCommandsExpand : Prop :=
  ∀ (c : Config) (r : Result) (rest : List Task),
    Pseudo.poll.expand c = [.issue .fifoPop, .dispatchPopped] ∧
    Pseudo.drainAll.expand c = [.issue .fifoPop, .drainPopped] ∧
    (∀ i, nextCommand c r (.issue i :: rest) = some (i, rest)) ∧
    (r.v = true →
      nextCommand c r (.dispatchPopped :: rest) = some (.canDispatch r.f, rest) ∧
      nextCommand c r (.drainPopped :: rest) = some (.canDispatch r.f, Pseudo.drainAll.expand c ++ rest)) ∧
    (r.v = false →
      nextCommand c r (.dispatchPopped :: rest) = nextCommand c r rest ∧
      nextCommand c r (.drainPopped :: rest) = nextCommand c r rest) ∧
    (Pseudo.stepAll.expand c).length = c.gauges.length ∧ (Pseudo.trackAll.expand c).length = c.gauges.length ∧
    (∀ g < c.gauges.length,
      (Pseudo.stepAll.expand c)[g]? = some (.issue (.gaugeStep (BitVec.ofNat 4 g))) ∧
      (Pseudo.trackAll.expand c)[g]? = some (.issue (.gaugeTrack (BitVec.ofNat 4 g)))) ∧
    Pseudo.loopIter.expand c =
      [.issue .errDrain] ++ Pseudo.drainAll.expand c ++ Pseudo.trackAll.expand c ++ Pseudo.stepAll.expand c
end

