-- ==== Sys2Proof/Laws/Encoding.lean ====
section
/-! SUPPORT. The command word field by field: a word is its five fields, a row's match/mask test is a test of each field,
and a packed word has the fields it was packed from. -/

namespace Sys2Proof

/-- Masking two appended bit strings masks each part. -/
theorem append_and_append {n m : Nat} (a b : BitVec n) (c d : BitVec m) :
    (a ++ c) &&& (b ++ d) = (a &&& b) ++ (c &&& d) := by
  apply BitVec.eq_of_getLsbD_eq
  intro i hi
  simp only [BitVec.getLsbD_append, BitVec.getLsbD_and]
  split <;> rfl

/-- Appended bit strings are equal exactly if their parts are. -/
theorem append_eq_append {n m : Nat} {a b : BitVec n} {c d : BitVec m} : a ++ c = b ++ d ↔ a = b ∧ c = d := by
  constructor
  · intro h
    constructor
    · simpa [BitVec.extractLsb'_append_eq_left] using congrArg (fun x => x.extractLsb' m n) h
    · simpa [BitVec.extractLsb'_append_eq_right] using congrArg (fun x => x.extractLsb' 0 m) h
  · rintro ⟨rfl, rfl⟩; rfl

/-- A command word is its five fields (30_encoding.md R110). -/
theorem cmd_eq_fields (cmd : Word) :
    cmd = (cmdImm cmd ++ cmdRsv1 cmd) ++ ((cmdG cmd ++ cmdRsv0 cmd) ++ cmdOp cmd) := by
  apply BitVec.eq_of_getLsbD_eq
  intro i hi
  unfold cmdImm cmdRsv1 cmdG cmdRsv0 cmdOp
  simp only [BitVec.getLsbD_append, BitVec.getLsbD_extractLsb']
  by_cases h1 : i < 6
  · simp [h1, show i < 12 by omega]
  by_cases h2 : i < 8
  · simp [h1, show i < 12 by omega, show i - 6 < 2 by omega]; congr 1; omega
  by_cases h3 : i < 12
  · simp [h1, h3, show ¬ (i - 6 < 2) by omega, show i - 6 - 2 < 4 by omega]; congr 1; omega
  by_cases h4 : i < 16
  · simp [h3, show i - 12 < 4 by omega]; congr 1; omega
  · simp [h3, show ¬ (i - 12 < 4) by omega, show i - 12 - 4 < 16 by omega]; congr 1; omega

/-- Two command words with the same fields are the same word. -/
theorem cmd_ext {a b : Word} (hi : cmdImm a = cmdImm b) (h1 : cmdRsv1 a = cmdRsv1 b) (hg : cmdG a = cmdG b)
    (h0 : cmdRsv0 a = cmdRsv0 b) (ho : cmdOp a = cmdOp b) : a = b := by
  rw [cmd_eq_fields a, cmd_eq_fields b, hi, h1, hg, h0, ho]

/-- A row accepts a word exactly if each field passes the row's mask on that field (30_encoding.md R115). -/
theorem accepts_iff (r : Row) (cmd : Word) : r.accepts cmd = true ↔
    cmdImm cmd &&& cmdImm r.mask = cmdImm r.pattern ∧ cmdRsv1 cmd &&& cmdRsv1 r.mask = cmdRsv1 r.pattern ∧
    cmdG cmd &&& cmdG r.mask = cmdG r.pattern ∧ cmdRsv0 cmd &&& cmdRsv0 r.mask = cmdRsv0 r.pattern ∧
    cmdOp cmd &&& cmdOp r.mask = cmdOp r.pattern := by
  unfold Row.accepts
  rw [beq_iff_eq]
  conv_lhs => rw [cmd_eq_fields cmd, cmd_eq_fields r.mask, cmd_eq_fields r.pattern]
  rw [append_and_append, append_and_append, append_and_append, append_and_append, append_eq_append, append_eq_append,
    append_eq_append, append_eq_append]
  simp only [and_assoc]

@[simp] theorem cmdImm_packCmd (op : BitVec 6) (g : BitVec 4) (imm : Half) : cmdImm (packCmd op g imm) = imm := by
  have h := cmd_eq_fields (packCmd op g imm)
  conv_lhs at h => unfold packCmd
  rw [append_eq_append, append_eq_append, append_eq_append, append_eq_append] at h
  exact h.1.1.symm

@[simp] theorem cmdRsv1_packCmd (op : BitVec 6) (g : BitVec 4) (imm : Half) : cmdRsv1 (packCmd op g imm) = 0 := by
  have h := cmd_eq_fields (packCmd op g imm)
  conv_lhs at h => unfold packCmd
  rw [append_eq_append, append_eq_append, append_eq_append, append_eq_append] at h
  exact h.1.2.symm

@[simp] theorem cmdG_packCmd (op : BitVec 6) (g : BitVec 4) (imm : Half) : cmdG (packCmd op g imm) = g := by
  have h := cmd_eq_fields (packCmd op g imm)
  conv_lhs at h => unfold packCmd
  rw [append_eq_append, append_eq_append, append_eq_append, append_eq_append] at h
  exact h.2.1.1.symm

@[simp] theorem cmdRsv0_packCmd (op : BitVec 6) (g : BitVec 4) (imm : Half) : cmdRsv0 (packCmd op g imm) = 0 := by
  have h := cmd_eq_fields (packCmd op g imm)
  conv_lhs at h => unfold packCmd
  rw [append_eq_append, append_eq_append, append_eq_append, append_eq_append] at h
  exact h.2.1.2.symm

@[simp] theorem cmdOp_packCmd (op : BitVec 6) (g : BitVec 4) (imm : Half) : cmdOp (packCmd op g imm) = op := by
  have h := cmd_eq_fields (packCmd op g imm)
  conv_lhs at h => unfold packCmd
  rw [append_eq_append, append_eq_append, append_eq_append, append_eq_append] at h
  exact h.2.2.symm

/-- The side band of CAN.CONFIG read back as its entries. -/
theorem filterEntries_flatMap (es : List FilterEntry) :
    filterEntries (es.flatMap fun e => [e.ew0, e.ew1]) = some es := by
  induction es with
  | nil => rfl
  | cons e es ih => simp [filterEntries, ih]

/-- A side band that reads as filter entries is the words of those entries. -/
theorem flatMap_of_filterEntries : ∀ (ws : List Word) (es : List FilterEntry),
    filterEntries ws = some es → es.flatMap (fun e => [e.ew0, e.ew1]) = ws
  | [], es, h => by cases h; rfl
  | [_], _, h => by cases h
  | a :: b :: ws, es, h => by
    unfold filterEntries at h
    split at h
    · rename_i es' h'
      cases h
      simp [flatMap_of_filterEntries ws es' h']
    · cases h

/-- A side band reads as filter entries exactly if its words are even in number, two for each entry. -/
theorem filterEntries_length : ∀ (ws : List Word) (k : Nat),
    (∃ es, filterEntries ws = some es ∧ es.length = k) ↔ ws.length = 2 * k
  | [], k => by simp [filterEntries]; omega
  | [_], k => by simp [filterEntries]; omega
  | a :: b :: ws, k => by
    cases k with
    | zero =>
      simp only [List.length_cons, List.length_eq_zero_iff]
      constructor
      · rintro ⟨es, h, rfl⟩
        unfold filterEntries at h
        split at h <;> cases h
      · omega
    | succ k =>
      have ih := filterEntries_length ws k
      have e : (a :: b :: ws).length = 2 * (k + 1) ↔ ws.length = 2 * k := by simp; omega
      rw [e, ← ih]
      constructor
      · rintro ⟨es, h, hl⟩
        unfold filterEntries at h
        split at h
        · rename_i es' h'
          cases h
          exact ⟨es', h', by simpa using hl⟩
        · cases h
      · rintro ⟨es, h, hl⟩
        exact ⟨⟨a, b⟩ :: es, by simp [filterEntries, h], by simp [hl]⟩

end Sys2Proof
end

