-- ==== Sys2Proof/Laws/State.lean ====
section
/-! SUPPORT. What each named update of the state does to each field, and to what is derived from the fields. -/

namespace Sys2Proof.Machine

/-! ## State.takeFault -/

@[simp] theorem takeFault_cfg (s : State) (code : FaultCode) (op : BitVec 6) : (s.takeFault code op).cfg = s.cfg := (rfl)
@[simp] theorem takeFault_mode (s : State) (code : FaultCode) (op : BitVec 6) : (s.takeFault code op).mode = .faulted := (rfl)
@[simp] theorem takeFault_faultCode (s : State) (code : FaultCode) (op : BitVec 6) : (s.takeFault code op).faultCode = code := (rfl)
@[simp] theorem takeFault_faultOp (s : State) (code : FaultCode) (op : BitVec 6) : (s.takeFault code op).faultOp = op := (rfl)
@[simp] theorem takeFault_faultPort (s : State) (code : FaultCode) (op : BitVec 6) : (s.takeFault code op).faultPort = s.port := (rfl)
@[simp] theorem takeFault_irqEn (s : State) (code : FaultCode) (op : BitVec 6) : (s.takeFault code op).irqEn = s.irqEn := (rfl)
@[simp] theorem takeFault_cfgDone (s : State) (code : FaultCode) (op : BitVec 6) : (s.takeFault code op).cfgDone = s.cfgDone := (rfl)
@[simp] theorem takeFault_clock (s : State) (code : FaultCode) (op : BitVec 6) : (s.takeFault code op).clock = s.clock := (rfl)
@[simp] theorem takeFault_slot (s : State) (code : FaultCode) (op : BitVec 6) : (s.takeFault code op).slot = s.slot := (rfl)
@[simp] theorem takeFault_head (s : State) (code : FaultCode) (op : BitVec 6) : (s.takeFault code op).head = s.head := (rfl)
@[simp] theorem takeFault_hwrap (s : State) (code : FaultCode) (op : BitVec 6) : (s.takeFault code op).hwrap = s.hwrap := (rfl)
@[simp] theorem takeFault_tail (s : State) (code : FaultCode) (op : BitVec 6) : (s.takeFault code op).tail = s.tail := (rfl)
@[simp] theorem takeFault_twrap (s : State) (code : FaultCode) (op : BitVec 6) : (s.takeFault code op).twrap = s.twrap := (rfl)
@[simp] theorem takeFault_filt (s : State) (code : FaultCode) (op : BitVec 6) : (s.takeFault code op).filt = s.filt := (rfl)
@[simp] theorem takeFault_errFlag (s : State) (code : FaultCode) (op : BitVec 6) : (s.takeFault code op).errFlag = s.errFlag := (rfl)
@[simp] theorem takeFault_errCode (s : State) (code : FaultCode) (op : BitVec 6) : (s.takeFault code op).errCode = s.errCode := (rfl)
@[simp] theorem takeFault_sig (s : State) (code : FaultCode) (op : BitVec 6) : (s.takeFault code op).sig = s.sig := (rfl)
@[simp] theorem takeFault_gauge (s : State) (code : FaultCode) (op : BitVec 6) : (s.takeFault code op).gauge = s.gauge := (rfl)
@[simp] theorem takeFault_out (s : State) (code : FaultCode) (op : BitVec 6) : (s.takeFault code op).out = s.out := (rfl)
@[simp] theorem takeFault_resMain (s : State) (code : FaultCode) (op : BitVec 6) : (s.takeFault code op).resMain = s.resMain := (rfl)
@[simp] theorem takeFault_resIrq (s : State) (code : FaultCode) (op : BitVec 6) : (s.takeFault code op).resIrq = s.resIrq := (rfl)
@[simp] theorem takeFault_env (s : State) (code : FaultCode) (op : BitVec 6) : (s.takeFault code op).env = s.env := (rfl)
@[simp] theorem takeFault_port (s : State) (code : FaultCode) (op : BitVec 6) : (s.takeFault code op).port = s.port := (rfl)

/-! ## State.emit -/

@[simp] theorem emit_cfg (s : State) (e : OutEvent) : (s.emit e).cfg = s.cfg := (rfl)
@[simp] theorem emit_mode (s : State) (e : OutEvent) : (s.emit e).mode = s.mode := (rfl)
@[simp] theorem emit_faultCode (s : State) (e : OutEvent) : (s.emit e).faultCode = s.faultCode := (rfl)
@[simp] theorem emit_faultOp (s : State) (e : OutEvent) : (s.emit e).faultOp = s.faultOp := (rfl)
@[simp] theorem emit_faultPort (s : State) (e : OutEvent) : (s.emit e).faultPort = s.faultPort := (rfl)
@[simp] theorem emit_irqEn (s : State) (e : OutEvent) : (s.emit e).irqEn = s.irqEn := (rfl)
@[simp] theorem emit_cfgDone (s : State) (e : OutEvent) : (s.emit e).cfgDone = s.cfgDone := (rfl)
@[simp] theorem emit_clock (s : State) (e : OutEvent) : (s.emit e).clock = s.clock := (rfl)
@[simp] theorem emit_slot (s : State) (e : OutEvent) : (s.emit e).slot = s.slot := (rfl)
@[simp] theorem emit_head (s : State) (e : OutEvent) : (s.emit e).head = s.head := (rfl)
@[simp] theorem emit_hwrap (s : State) (e : OutEvent) : (s.emit e).hwrap = s.hwrap := (rfl)
@[simp] theorem emit_tail (s : State) (e : OutEvent) : (s.emit e).tail = s.tail := (rfl)
@[simp] theorem emit_twrap (s : State) (e : OutEvent) : (s.emit e).twrap = s.twrap := (rfl)
@[simp] theorem emit_filt (s : State) (e : OutEvent) : (s.emit e).filt = s.filt := (rfl)
@[simp] theorem emit_errFlag (s : State) (e : OutEvent) : (s.emit e).errFlag = s.errFlag := (rfl)
@[simp] theorem emit_errCode (s : State) (e : OutEvent) : (s.emit e).errCode = s.errCode := (rfl)
@[simp] theorem emit_sig (s : State) (e : OutEvent) : (s.emit e).sig = s.sig := (rfl)
@[simp] theorem emit_gauge (s : State) (e : OutEvent) : (s.emit e).gauge = s.gauge := (rfl)
@[simp] theorem emit_out (s : State) (e : OutEvent) : (s.emit e).out = s.out ++ [e] := (rfl)
@[simp] theorem emit_resMain (s : State) (e : OutEvent) : (s.emit e).resMain = s.resMain := (rfl)
@[simp] theorem emit_resIrq (s : State) (e : OutEvent) : (s.emit e).resIrq = s.resIrq := (rfl)
@[simp] theorem emit_env (s : State) (e : OutEvent) : (s.emit e).env = s.env := (rfl)
@[simp] theorem emit_port (s : State) (e : OutEvent) : (s.emit e).port = s.port := (rfl)

/-! ## State.putGauge -/

@[simp] theorem putGauge_cfg (s : State) (g : Nat) (r : GaugeRec) : (s.putGauge g r).cfg = s.cfg := (rfl)
@[simp] theorem putGauge_mode (s : State) (g : Nat) (r : GaugeRec) : (s.putGauge g r).mode = s.mode := (rfl)
@[simp] theorem putGauge_faultCode (s : State) (g : Nat) (r : GaugeRec) : (s.putGauge g r).faultCode = s.faultCode := (rfl)
@[simp] theorem putGauge_faultOp (s : State) (g : Nat) (r : GaugeRec) : (s.putGauge g r).faultOp = s.faultOp := (rfl)
@[simp] theorem putGauge_faultPort (s : State) (g : Nat) (r : GaugeRec) : (s.putGauge g r).faultPort = s.faultPort := (rfl)
@[simp] theorem putGauge_irqEn (s : State) (g : Nat) (r : GaugeRec) : (s.putGauge g r).irqEn = s.irqEn := (rfl)
@[simp] theorem putGauge_cfgDone (s : State) (g : Nat) (r : GaugeRec) : (s.putGauge g r).cfgDone = s.cfgDone := (rfl)
@[simp] theorem putGauge_clock (s : State) (g : Nat) (r : GaugeRec) : (s.putGauge g r).clock = s.clock := (rfl)
@[simp] theorem putGauge_slot (s : State) (g : Nat) (r : GaugeRec) : (s.putGauge g r).slot = s.slot := (rfl)
@[simp] theorem putGauge_head (s : State) (g : Nat) (r : GaugeRec) : (s.putGauge g r).head = s.head := (rfl)
@[simp] theorem putGauge_hwrap (s : State) (g : Nat) (r : GaugeRec) : (s.putGauge g r).hwrap = s.hwrap := (rfl)
@[simp] theorem putGauge_tail (s : State) (g : Nat) (r : GaugeRec) : (s.putGauge g r).tail = s.tail := (rfl)
@[simp] theorem putGauge_twrap (s : State) (g : Nat) (r : GaugeRec) : (s.putGauge g r).twrap = s.twrap := (rfl)
@[simp] theorem putGauge_filt (s : State) (g : Nat) (r : GaugeRec) : (s.putGauge g r).filt = s.filt := (rfl)
@[simp] theorem putGauge_errFlag (s : State) (g : Nat) (r : GaugeRec) : (s.putGauge g r).errFlag = s.errFlag := (rfl)
@[simp] theorem putGauge_errCode (s : State) (g : Nat) (r : GaugeRec) : (s.putGauge g r).errCode = s.errCode := (rfl)
@[simp] theorem putGauge_sig (s : State) (g : Nat) (r : GaugeRec) : (s.putGauge g r).sig = s.sig := (rfl)
@[simp] theorem putGauge_gauge (s : State) (g : Nat) (r : GaugeRec) : (s.putGauge g r).gauge = s.gauge.set g r := (rfl)
@[simp] theorem putGauge_out (s : State) (g : Nat) (r : GaugeRec) : (s.putGauge g r).out = s.out := (rfl)
@[simp] theorem putGauge_resMain (s : State) (g : Nat) (r : GaugeRec) : (s.putGauge g r).resMain = s.resMain := (rfl)
@[simp] theorem putGauge_resIrq (s : State) (g : Nat) (r : GaugeRec) : (s.putGauge g r).resIrq = s.resIrq := (rfl)
@[simp] theorem putGauge_env (s : State) (g : Nat) (r : GaugeRec) : (s.putGauge g r).env = s.env := (rfl)
@[simp] theorem putGauge_port (s : State) (g : Nat) (r : GaugeRec) : (s.putGauge g r).port = s.port := (rfl)

/-! ## State.pushFrame -/

@[simp] theorem pushFrame_cfg (s : State) (f : Frame) : (s.pushFrame f).cfg = s.cfg := (rfl)
@[simp] theorem pushFrame_mode (s : State) (f : Frame) : (s.pushFrame f).mode = s.mode := (rfl)
@[simp] theorem pushFrame_faultCode (s : State) (f : Frame) : (s.pushFrame f).faultCode = s.faultCode := (rfl)
@[simp] theorem pushFrame_faultOp (s : State) (f : Frame) : (s.pushFrame f).faultOp = s.faultOp := (rfl)
@[simp] theorem pushFrame_faultPort (s : State) (f : Frame) : (s.pushFrame f).faultPort = s.faultPort := (rfl)
@[simp] theorem pushFrame_irqEn (s : State) (f : Frame) : (s.pushFrame f).irqEn = s.irqEn := (rfl)
@[simp] theorem pushFrame_cfgDone (s : State) (f : Frame) : (s.pushFrame f).cfgDone = s.cfgDone := (rfl)
@[simp] theorem pushFrame_clock (s : State) (f : Frame) : (s.pushFrame f).clock = s.clock := (rfl)
@[simp] theorem pushFrame_slot (s : State) (f : Frame) : (s.pushFrame f).slot = s.slot.set s.tail.toNat f := (rfl)
@[simp] theorem pushFrame_head (s : State) (f : Frame) : (s.pushFrame f).head = s.head := (rfl)
@[simp] theorem pushFrame_hwrap (s : State) (f : Frame) : (s.pushFrame f).hwrap = s.hwrap := (rfl)
@[simp] theorem pushFrame_tail (s : State) (f : Frame) : (s.pushFrame f).tail = (advance s.cfg.fifoDepth s.tail s.twrap).1 := (rfl)
@[simp] theorem pushFrame_twrap (s : State) (f : Frame) : (s.pushFrame f).twrap = (advance s.cfg.fifoDepth s.tail s.twrap).2 := (rfl)
@[simp] theorem pushFrame_filt (s : State) (f : Frame) : (s.pushFrame f).filt = s.filt := (rfl)
@[simp] theorem pushFrame_errFlag (s : State) (f : Frame) : (s.pushFrame f).errFlag = s.errFlag := (rfl)
@[simp] theorem pushFrame_errCode (s : State) (f : Frame) : (s.pushFrame f).errCode = s.errCode := (rfl)
@[simp] theorem pushFrame_sig (s : State) (f : Frame) : (s.pushFrame f).sig = s.sig := (rfl)
@[simp] theorem pushFrame_gauge (s : State) (f : Frame) : (s.pushFrame f).gauge = s.gauge := (rfl)
@[simp] theorem pushFrame_out (s : State) (f : Frame) : (s.pushFrame f).out = s.out := (rfl)
@[simp] theorem pushFrame_resMain (s : State) (f : Frame) : (s.pushFrame f).resMain = s.resMain := (rfl)
@[simp] theorem pushFrame_resIrq (s : State) (f : Frame) : (s.pushFrame f).resIrq = s.resIrq := (rfl)
@[simp] theorem pushFrame_env (s : State) (f : Frame) : (s.pushFrame f).env = s.env := (rfl)
@[simp] theorem pushFrame_port (s : State) (f : Frame) : (s.pushFrame f).port = s.port := (rfl)

/-! ## State.popHead -/

@[simp] theorem popHead_cfg (s : State) : (s.popHead).cfg = s.cfg := (rfl)
@[simp] theorem popHead_mode (s : State) : (s.popHead).mode = s.mode := (rfl)
@[simp] theorem popHead_faultCode (s : State) : (s.popHead).faultCode = s.faultCode := (rfl)
@[simp] theorem popHead_faultOp (s : State) : (s.popHead).faultOp = s.faultOp := (rfl)
@[simp] theorem popHead_faultPort (s : State) : (s.popHead).faultPort = s.faultPort := (rfl)
@[simp] theorem popHead_irqEn (s : State) : (s.popHead).irqEn = s.irqEn := (rfl)
@[simp] theorem popHead_cfgDone (s : State) : (s.popHead).cfgDone = s.cfgDone := (rfl)
@[simp] theorem popHead_clock (s : State) : (s.popHead).clock = s.clock := (rfl)
@[simp] theorem popHead_slot (s : State) : (s.popHead).slot = s.slot := (rfl)
@[simp] theorem popHead_head (s : State) : (s.popHead).head = (advance s.cfg.fifoDepth s.head s.hwrap).1 := (rfl)
@[simp] theorem popHead_hwrap (s : State) : (s.popHead).hwrap = (advance s.cfg.fifoDepth s.head s.hwrap).2 := (rfl)
@[simp] theorem popHead_tail (s : State) : (s.popHead).tail = s.tail := (rfl)
@[simp] theorem popHead_twrap (s : State) : (s.popHead).twrap = s.twrap := (rfl)
@[simp] theorem popHead_filt (s : State) : (s.popHead).filt = s.filt := (rfl)
@[simp] theorem popHead_errFlag (s : State) : (s.popHead).errFlag = s.errFlag := (rfl)
@[simp] theorem popHead_errCode (s : State) : (s.popHead).errCode = s.errCode := (rfl)
@[simp] theorem popHead_sig (s : State) : (s.popHead).sig = s.sig := (rfl)
@[simp] theorem popHead_gauge (s : State) : (s.popHead).gauge = s.gauge := (rfl)
@[simp] theorem popHead_out (s : State) : (s.popHead).out = s.out := (rfl)
@[simp] theorem popHead_resMain (s : State) : (s.popHead).resMain = s.resMain := (rfl)
@[simp] theorem popHead_resIrq (s : State) : (s.popHead).resIrq = s.resIrq := (rfl)
@[simp] theorem popHead_env (s : State) : (s.popHead).env = s.env := (rfl)
@[simp] theorem popHead_port (s : State) : (s.popHead).port = s.port := (rfl)

/-! ## State.flushFifo -/

@[simp] theorem flushFifo_cfg (s : State) : (s.flushFifo).cfg = s.cfg := (rfl)
@[simp] theorem flushFifo_mode (s : State) : (s.flushFifo).mode = s.mode := (rfl)
@[simp] theorem flushFifo_faultCode (s : State) : (s.flushFifo).faultCode = s.faultCode := (rfl)
@[simp] theorem flushFifo_faultOp (s : State) : (s.flushFifo).faultOp = s.faultOp := (rfl)
@[simp] theorem flushFifo_faultPort (s : State) : (s.flushFifo).faultPort = s.faultPort := (rfl)
@[simp] theorem flushFifo_irqEn (s : State) : (s.flushFifo).irqEn = s.irqEn := (rfl)
@[simp] theorem flushFifo_cfgDone (s : State) : (s.flushFifo).cfgDone = s.cfgDone := (rfl)
@[simp] theorem flushFifo_clock (s : State) : (s.flushFifo).clock = s.clock := (rfl)
@[simp] theorem flushFifo_slot (s : State) : (s.flushFifo).slot = List.replicate s.cfg.fifoDepth Frame.zero := (rfl)
@[simp] theorem flushFifo_head (s : State) : (s.flushFifo).head = 0 := (rfl)
@[simp] theorem flushFifo_hwrap (s : State) : (s.flushFifo).hwrap = false := (rfl)
@[simp] theorem flushFifo_tail (s : State) : (s.flushFifo).tail = 0 := (rfl)
@[simp] theorem flushFifo_twrap (s : State) : (s.flushFifo).twrap = false := (rfl)
@[simp] theorem flushFifo_filt (s : State) : (s.flushFifo).filt = s.filt := (rfl)
@[simp] theorem flushFifo_errFlag (s : State) : (s.flushFifo).errFlag = s.errFlag := (rfl)
@[simp] theorem flushFifo_errCode (s : State) : (s.flushFifo).errCode = s.errCode := (rfl)
@[simp] theorem flushFifo_sig (s : State) : (s.flushFifo).sig = s.sig := (rfl)
@[simp] theorem flushFifo_gauge (s : State) : (s.flushFifo).gauge = s.gauge := (rfl)
@[simp] theorem flushFifo_out (s : State) : (s.flushFifo).out = s.out := (rfl)
@[simp] theorem flushFifo_resMain (s : State) : (s.flushFifo).resMain = s.resMain := (rfl)
@[simp] theorem flushFifo_resIrq (s : State) : (s.flushFifo).resIrq = s.resIrq := (rfl)
@[simp] theorem flushFifo_env (s : State) : (s.flushFifo).env = s.env := (rfl)
@[simp] theorem flushFifo_port (s : State) : (s.flushFifo).port = s.port := (rfl)

/-! ## State.serving -/

@[simp] theorem serving_cfg (s : State) (p : Port) (es : List EnvEvent) : (s.serving p es).cfg = s.cfg := (rfl)
@[simp] theorem serving_mode (s : State) (p : Port) (es : List EnvEvent) : (s.serving p es).mode = s.mode := (rfl)
@[simp] theorem serving_faultCode (s : State) (p : Port) (es : List EnvEvent) : (s.serving p es).faultCode = s.faultCode := (rfl)
@[simp] theorem serving_faultOp (s : State) (p : Port) (es : List EnvEvent) : (s.serving p es).faultOp = s.faultOp := (rfl)
@[simp] theorem serving_faultPort (s : State) (p : Port) (es : List EnvEvent) : (s.serving p es).faultPort = s.faultPort := (rfl)
@[simp] theorem serving_irqEn (s : State) (p : Port) (es : List EnvEvent) : (s.serving p es).irqEn = s.irqEn := (rfl)
@[simp] theorem serving_cfgDone (s : State) (p : Port) (es : List EnvEvent) : (s.serving p es).cfgDone = s.cfgDone := (rfl)
@[simp] theorem serving_clock (s : State) (p : Port) (es : List EnvEvent) : (s.serving p es).clock = s.clock := (rfl)
@[simp] theorem serving_slot (s : State) (p : Port) (es : List EnvEvent) : (s.serving p es).slot = s.slot := (rfl)
@[simp] theorem serving_head (s : State) (p : Port) (es : List EnvEvent) : (s.serving p es).head = s.head := (rfl)
@[simp] theorem serving_hwrap (s : State) (p : Port) (es : List EnvEvent) : (s.serving p es).hwrap = s.hwrap := (rfl)
@[simp] theorem serving_tail (s : State) (p : Port) (es : List EnvEvent) : (s.serving p es).tail = s.tail := (rfl)
@[simp] theorem serving_twrap (s : State) (p : Port) (es : List EnvEvent) : (s.serving p es).twrap = s.twrap := (rfl)
@[simp] theorem serving_filt (s : State) (p : Port) (es : List EnvEvent) : (s.serving p es).filt = s.filt := (rfl)
@[simp] theorem serving_errFlag (s : State) (p : Port) (es : List EnvEvent) : (s.serving p es).errFlag = s.errFlag := (rfl)
@[simp] theorem serving_errCode (s : State) (p : Port) (es : List EnvEvent) : (s.serving p es).errCode = s.errCode := (rfl)
@[simp] theorem serving_sig (s : State) (p : Port) (es : List EnvEvent) : (s.serving p es).sig = s.sig := (rfl)
@[simp] theorem serving_gauge (s : State) (p : Port) (es : List EnvEvent) : (s.serving p es).gauge = s.gauge := (rfl)
@[simp] theorem serving_out (s : State) (p : Port) (es : List EnvEvent) : (s.serving p es).out = s.out := (rfl)
@[simp] theorem serving_resMain (s : State) (p : Port) (es : List EnvEvent) : (s.serving p es).resMain = s.resMain := (rfl)
@[simp] theorem serving_resIrq (s : State) (p : Port) (es : List EnvEvent) : (s.serving p es).resIrq = s.resIrq := (rfl)
@[simp] theorem serving_env (s : State) (p : Port) (es : List EnvEvent) : (s.serving p es).env = es := (rfl)
@[simp] theorem serving_port (s : State) (p : Port) (es : List EnvEvent) : (s.serving p es).port = p := (rfl)

/-! ## State.deliver -/

@[simp] theorem deliver_cfg (s : State) (r : Result) : (s.deliver r).cfg = s.cfg := by
  unfold State.deliver; split <;> rfl
@[simp] theorem deliver_mode (s : State) (r : Result) : (s.deliver r).mode = s.mode := by
  unfold State.deliver; split <;> rfl
@[simp] theorem deliver_faultCode (s : State) (r : Result) : (s.deliver r).faultCode = s.faultCode := by
  unfold State.deliver; split <;> rfl
@[simp] theorem deliver_faultOp (s : State) (r : Result) : (s.deliver r).faultOp = s.faultOp := by
  unfold State.deliver; split <;> rfl
@[simp] theorem deliver_faultPort (s : State) (r : Result) : (s.deliver r).faultPort = s.faultPort := by
  unfold State.deliver; split <;> rfl
@[simp] theorem deliver_irqEn (s : State) (r : Result) : (s.deliver r).irqEn = s.irqEn := by
  unfold State.deliver; split <;> rfl
@[simp] theorem deliver_cfgDone (s : State) (r : Result) : (s.deliver r).cfgDone = s.cfgDone := by
  unfold State.deliver; split <;> rfl
@[simp] theorem deliver_clock (s : State) (r : Result) : (s.deliver r).clock = s.clock := by
  unfold State.deliver; split <;> rfl
@[simp] theorem deliver_slot (s : State) (r : Result) : (s.deliver r).slot = s.slot := by
  unfold State.deliver; split <;> rfl
@[simp] theorem deliver_head (s : State) (r : Result) : (s.deliver r).head = s.head := by
  unfold State.deliver; split <;> rfl
@[simp] theorem deliver_hwrap (s : State) (r : Result) : (s.deliver r).hwrap = s.hwrap := by
  unfold State.deliver; split <;> rfl
@[simp] theorem deliver_tail (s : State) (r : Result) : (s.deliver r).tail = s.tail := by
  unfold State.deliver; split <;> rfl
@[simp] theorem deliver_twrap (s : State) (r : Result) : (s.deliver r).twrap = s.twrap := by
  unfold State.deliver; split <;> rfl
@[simp] theorem deliver_filt (s : State) (r : Result) : (s.deliver r).filt = s.filt := by
  unfold State.deliver; split <;> rfl
@[simp] theorem deliver_errFlag (s : State) (r : Result) : (s.deliver r).errFlag = s.errFlag := by
  unfold State.deliver; split <;> rfl
@[simp] theorem deliver_errCode (s : State) (r : Result) : (s.deliver r).errCode = s.errCode := by
  unfold State.deliver; split <;> rfl
@[simp] theorem deliver_sig (s : State) (r : Result) : (s.deliver r).sig = s.sig := by
  unfold State.deliver; split <;> rfl
@[simp] theorem deliver_gauge (s : State) (r : Result) : (s.deliver r).gauge = s.gauge := by
  unfold State.deliver; split <;> rfl
@[simp] theorem deliver_out (s : State) (r : Result) : (s.deliver r).out = s.out := by
  unfold State.deliver; split <;> rfl
@[simp] theorem deliver_env (s : State) (r : Result) : (s.deliver r).env = s.env := by
  unfold State.deliver; split <;> rfl
@[simp] theorem deliver_port (s : State) (r : Result) : (s.deliver r).port = s.port := by
  unfold State.deliver; split <;> rfl

/-- On the MAIN port a result goes to the MAIN channel. -/
theorem deliver_main {s : State} (h : s.port = .main) (r : Result) :
    s.deliver r = { s with resMain := s.resMain ++ [r] } := by
  unfold State.deliver; rw [h]

/-- On the IRQ port a result goes to the IRQ channel. -/
theorem deliver_irq {s : State} (h : s.port = .irq) (r : Result) :
    s.deliver r = { s with resIrq := s.resIrq ++ [r] } := by
  unfold State.deliver; rw [h]

/-! ## Derived values -/

/-- COUNT reads the parameters and the four pointer fields only. -/
theorem count_congr {s t : State} (hc : t.cfg = s.cfg) (hh : t.head = s.head) (hw : t.hwrap = s.hwrap)
    (ht : t.tail = s.tail) (hx : t.twrap = s.twrap) : t.count = s.count := by
  unfold State.count; rw [hc, hh, hw, ht, hx]

/-- The queue reads the parameters, the slots and the four pointer fields only. -/
theorem queued_congr {s t : State} (hc : t.cfg = s.cfg) (hh : t.head = s.head) (hw : t.hwrap = s.hwrap)
    (ht : t.tail = s.tail) (hx : t.twrap = s.twrap) (hs : t.slot = s.slot) : t.queued = s.queued := by
  unfold State.queued State.slotAt; rw [count_congr hc hh hw ht hx, hc, hh, hs]

@[simp] theorem takeFault_count (s : State) (code : FaultCode) (op : BitVec 6) : (s.takeFault code op).count = s.count := (rfl)
@[simp] theorem emit_count (s : State) (e : OutEvent) : (s.emit e).count = s.count := (rfl)
@[simp] theorem putGauge_count (s : State) (g : Nat) (r : GaugeRec) : (s.putGauge g r).count = s.count := (rfl)
@[simp] theorem serving_count (s : State) (p : Port) (es : List EnvEvent) : (s.serving p es).count = s.count := (rfl)
@[simp] theorem deliver_count (s : State) (r : Result) : (s.deliver r).count = s.count :=
  count_congr (by simp) (by simp) (by simp) (by simp) (by simp)
@[simp] theorem deliver_queued (s : State) (r : Result) : (s.deliver r).queued = s.queued :=
  queued_congr (by simp) (by simp) (by simp) (by simp) (by simp) (by simp)
@[simp] theorem deliver_gaugeAt (s : State) (r : Result) (g : Nat) : (s.deliver r).gaugeAt g = s.gaugeAt g := by
  unfold State.gaugeAt; rw [deliver_gauge]
@[simp] theorem takeFault_gaugeAt (s : State) (code : FaultCode) (op : BitVec 6) (g : Nat) : (s.takeFault code op).gaugeAt g = s.gaugeAt g := (rfl)
@[simp] theorem emit_gaugeAt (s : State) (e : OutEvent) (g : Nat) : (s.emit e).gaugeAt g = s.gaugeAt g := (rfl)
@[simp] theorem pushFrame_gaugeAt (s : State) (f : Frame) (g : Nat) : (s.pushFrame f).gaugeAt g = s.gaugeAt g := (rfl)
@[simp] theorem popHead_gaugeAt (s : State) (g : Nat) : (s.popHead ).gaugeAt g = s.gaugeAt g := (rfl)
@[simp] theorem flushFifo_gaugeAt (s : State) (g : Nat) : (s.flushFifo ).gaugeAt g = s.gaugeAt g := (rfl)
@[simp] theorem serving_gaugeAt (s : State) (p : Port) (es : List EnvEvent) (g : Nat) : (s.serving p es).gaugeAt g = s.gaugeAt g := (rfl)
@[simp] theorem deliver_sigAt (s : State) (r : Result) (x : Nat) : (s.deliver r).sigAt x = s.sigAt x := by
  unfold State.sigAt; rw [deliver_sig]
@[simp] theorem takeFault_sigAt (s : State) (code : FaultCode) (op : BitVec 6) (x : Nat) : (s.takeFault code op).sigAt x = s.sigAt x := (rfl)
@[simp] theorem emit_sigAt (s : State) (e : OutEvent) (x : Nat) : (s.emit e).sigAt x = s.sigAt x := (rfl)
@[simp] theorem putGauge_sigAt (s : State) (g' : Nat) (r : GaugeRec) (x : Nat) : (s.putGauge g' r).sigAt x = s.sigAt x := (rfl)
@[simp] theorem pushFrame_sigAt (s : State) (f : Frame) (x : Nat) : (s.pushFrame f).sigAt x = s.sigAt x := (rfl)
@[simp] theorem popHead_sigAt (s : State) (x : Nat) : (s.popHead ).sigAt x = s.sigAt x := (rfl)
@[simp] theorem flushFifo_sigAt (s : State) (x : Nat) : (s.flushFifo ).sigAt x = s.sigAt x := (rfl)
@[simp] theorem serving_sigAt (s : State) (p : Port) (es : List EnvEvent) (x : Nat) : (s.serving p es).sigAt x = s.sigAt x := (rfl)
@[simp] theorem deliver_filtAt (s : State) (r : Result) (k : Nat) : (s.deliver r).filtAt k = s.filtAt k := by
  unfold State.filtAt; rw [deliver_filt]
@[simp] theorem takeFault_filtAt (s : State) (code : FaultCode) (op : BitVec 6) (k : Nat) : (s.takeFault code op).filtAt k = s.filtAt k := (rfl)
@[simp] theorem emit_filtAt (s : State) (e : OutEvent) (k : Nat) : (s.emit e).filtAt k = s.filtAt k := (rfl)
@[simp] theorem putGauge_filtAt (s : State) (g' : Nat) (r : GaugeRec) (k : Nat) : (s.putGauge g' r).filtAt k = s.filtAt k := (rfl)
@[simp] theorem pushFrame_filtAt (s : State) (f : Frame) (k : Nat) : (s.pushFrame f).filtAt k = s.filtAt k := (rfl)
@[simp] theorem popHead_filtAt (s : State) (k : Nat) : (s.popHead ).filtAt k = s.filtAt k := (rfl)
@[simp] theorem flushFifo_filtAt (s : State) (k : Nat) : (s.flushFifo ).filtAt k = s.filtAt k := (rfl)
@[simp] theorem serving_filtAt (s : State) (p : Port) (es : List EnvEvent) (k : Nat) : (s.serving p es).filtAt k = s.filtAt k := (rfl)
@[simp] theorem deliver_slotAt (s : State) (r : Result) (i : Nat) : (s.deliver r).slotAt i = s.slotAt i := by
  unfold State.slotAt; rw [deliver_slot]
@[simp] theorem takeFault_slotAt (s : State) (code : FaultCode) (op : BitVec 6) (i : Nat) : (s.takeFault code op).slotAt i = s.slotAt i := (rfl)
@[simp] theorem emit_slotAt (s : State) (e : OutEvent) (i : Nat) : (s.emit e).slotAt i = s.slotAt i := (rfl)
@[simp] theorem putGauge_slotAt (s : State) (g' : Nat) (r : GaugeRec) (i : Nat) : (s.putGauge g' r).slotAt i = s.slotAt i := (rfl)
@[simp] theorem popHead_slotAt (s : State) (i : Nat) : (s.popHead ).slotAt i = s.slotAt i := (rfl)
@[simp] theorem serving_slotAt (s : State) (p : Port) (es : List EnvEvent) (i : Nat) : (s.serving p es).slotAt i = s.slotAt i := (rfl)

/-- Reading a gauge after writing one. -/
theorem putGauge_gaugeAt (s : State) (g h : Nat) (r : GaugeRec) :
    (s.putGauge g r).gaugeAt h = if g = h ∧ g < s.gauge.length then r else s.gaugeAt h := by
  unfold State.gaugeAt
  simp only [putGauge_gauge, List.getD_eq_getElem?_getD, List.getElem?_set]
  by_cases hg : g = h
  · subst hg
    by_cases hl : g < s.gauge.length <;> simp [hl]
  · simp [hg]

/-- Writing back what a gauge already holds changes nothing. -/
theorem putGauge_gaugeAt_self (s : State) (g : Nat) : s.putGauge g (s.gaugeAt g) = s := by
  have h : s.gauge.set g (s.gaugeAt g) = s.gauge := by
    apply List.ext_getElem?
    intro i
    rw [List.getElem?_set]
    by_cases hg : g = i
    · subst hg
      by_cases hl : g < s.gauge.length <;> simp [State.gaugeAt, hl]
    · simp [hg]
  unfold State.putGauge
  rw [h]

end Sys2Proof.Machine
end

