-- ==== Sys2Proof/Laws/Ops.lean ====
section
/-! SUPPORT. What each shared operation can do, said once: the handling of a command, the FIFO's pointers and queue, one
gauge step, the fetch and the step. -/

namespace Sys2Proof.Machine

/-! ## The handling of a command -/

@[simp] theorem firstFault_nil : firstFault [] = none := rfl

@[simp] theorem firstFault_cons (c : Check) (cs : List Check) :
    firstFault (c :: cs) = if c.applies then some c.code else firstFault cs := rfl

/-- The first fault is the code of a check that applies. -/
theorem firstFault_mem {cs : List Check} {code : FaultCode} (h : firstFault cs = some code) :
    ∃ c ∈ cs, c.applies = true ∧ c.code = code := by
  induction cs with
  | nil => cases h
  | cons c cs ih =>
    rw [firstFault_cons] at h
    split at h
    · exact ⟨c, List.mem_cons_self, ‹_›, by simpa using h⟩
    · obtain ⟨d, hd, ha, hc⟩ := ih h
      exact ⟨d, List.mem_cons_of_mem _ hd, ha, hc⟩

/-- No check raises a fault exactly if none applies. -/
theorem firstFault_eq_none {cs : List Check} : firstFault cs = none ↔ ∀ c ∈ cs, c.applies = false := by
  induction cs with
  | nil => simp
  | cons c cs ih => by_cases h : c.applies <;> simp [h, ih]

/-- A command always answers a next state. -/
theorem command_answers (op : Opcode) (s : State) (cs : List Check) (e : State × Result) :
    ∃ t, command op s cs e = .next t := by
  unfold command
  split
  · exact ⟨_, rfl⟩
  split
  · exact ⟨_, rfl⟩
  split
  · exact ⟨_, rfl⟩
  split <;> exact ⟨_, rfl⟩

/-- All a command can do: it is not accepted and nothing changes; it is on the other context's port; one of its own checks
raises a fault; or it has its effect and delivers its result. -/
theorem command_cases {op : Opcode} {s t : State} {cs : List Check} {e : State × Result}
    (h : command op s cs e = .next t) :
    (s.admits op = false ∧ t = s) ∨
    (s.mode.accepting = true ∧ op.context ≠ s.port ∧ t = s.takeFault .wrongContext op.code) ∨
    (s.admits op = true ∧ ∃ code, firstFault cs = some code ∧ t = s.takeFault code op.code) ∨
    (s.admits op = true ∧ firstFault cs = none ∧ t = e.1.deliver e.2) := by
  unfold command at h
  unfold State.admits
  split at h
  · rename_i hm
    cases h
    exact .inl ⟨by simp at hm; simp [hm], rfl⟩
  rename_i hm
  simp only [Bool.not_eq_true', Bool.not_eq_false] at hm
  split at h
  · rename_i hp
    cases h
    exact .inr (.inl ⟨hm, hp, rfl⟩)
  rename_i hp
  have hp : s.port = op.context := (not_not.mp hp).symm
  split at h
  · rename_i hg
    cases h
    exact .inl ⟨by simp at hg; simp [hg], rfl⟩
  rename_i hg
  simp only [Bool.not_eq_true', Bool.not_eq_false] at hg
  split at h
  · rename_i code hf
    cases h
    exact .inr (.inr (.inl ⟨by simp [hm, hp, hg], code, hf, rfl⟩))
  · rename_i hf
    cases h
    exact .inr (.inr (.inr ⟨by simp [hm, hp, hg], hf, rfl⟩))

/-- An admitted command whose checks all pass has its effect and delivers its result. -/
theorem command_completes {op : Opcode} {s : State} {cs : List Check} {e : State × Result}
    (ha : s.admits op = true) (hf : firstFault cs = none) : command op s cs e = .next (e.1.deliver e.2) := by
  simp only [State.admits, Bool.and_eq_true, beq_iff_eq] at ha
  simp [command, ha.1.1, ← ha.1.2, ha.2, hf]

/-- An admitted command one of whose checks applies takes that fault. -/
theorem command_faults {op : Opcode} {s : State} {cs : List Check} {e : State × Result} {code : FaultCode}
    (ha : s.admits op = true) (hf : firstFault cs = some code) :
    command op s cs e = .next (s.takeFault code op.code) := by
  simp only [State.admits, Bool.and_eq_true, beq_iff_eq] at ha
  simp [command, ha.1.1, ← ha.1.2, ha.2, hf]

/-- What `admits` says, condition by condition. -/
theorem admits_iff (s : State) (op : Opcode) :
    s.admits op = true ↔ s.mode.accepting = true ∧ s.port = op.context ∧ s.gateOpen op = true := by
  simp [State.admits, and_assoc]

/-! ## The FIFO's pointers -/

/-- Advancing a pointer adds one to its extended value, modulo 2N. -/
theorem advance_extended {n : Nat} (hn : n ≤ 65535) {p : Half} (hp : p.toNat < n) (w : Bool) :
    extended n (advance n p w).1 (advance n p w).2 = (extended n p w + 1) % (2 * n) := by
  have hp1 : p.toNat + 1 < 65536 := by omega
  unfold advance extended
  split
  · rename_i h
    cases w
    · simp; rw [Nat.mod_eq_of_lt (by omega)]; omega
    · simp
      have : p.toNat + n + 1 = 2 * n := by omega
      simp [this]
  · rename_i h
    have : (p + 1).toNat = p.toNat + 1 := by rw [BitVec.toNat_add]; simp; omega
    rw [this]
    cases w
    · simp; rw [Nat.mod_eq_of_lt (by omega)]
    · simp; rw [Nat.mod_eq_of_lt (by omega)]; omega

/-- An advanced pointer stays below N. -/
theorem advance_lt {n : Nat} (hn : n ≤ 65535) {p : Half} (hp : p.toNat < n) (w : Bool) :
    (advance n p w).1.toNat < n := by
  unfold advance
  split
  · simp; omega
  · rename_i h
    have : (p + 1).toNat = p.toNat + 1 := by rw [BitVec.toNat_add]; simp; omega
    simp only [this]; omega

/-- An advanced pointer is the next index modulo N. -/
theorem advance_mod {n : Nat} (hn : n ≤ 65535) {p : Half} (hp : p.toNat < n) (w : Bool) :
    (advance n p w).1.toNat = (p.toNat + 1) % n := by
  unfold advance
  split
  · rename_i h; simp [h]
  · rename_i h
    have : (p + 1).toNat = p.toNat + 1 := by rw [BitVec.toNat_add]; simp; omega
    simp only [this]; rw [Nat.mod_eq_of_lt (by omega)]

/-- An extended pointer lies below 2N. -/
theorem extended_lt {n : Nat} {p : Half} (hp : p.toNat < n) (w : Bool) : extended n p w < 2 * n := by
  unfold extended; cases w <;> simp <;> omega

/-- COUNT without integers, where both pointers are below N. -/
theorem count_eq {s : State} (hh : s.head.toNat < s.cfg.fifoDepth) :
    s.count = (extended s.cfg.fifoDepth s.tail s.twrap + 2 * s.cfg.fifoDepth
      - extended s.cfg.fifoDepth s.head s.hwrap) % (2 * s.cfg.fifoDepth) := by
  have h := extended_lt hh s.hwrap
  unfold State.count
  generalize extended s.cfg.fifoDepth s.tail s.twrap = a at *
  generalize extended s.cfg.fifoDepth s.head s.hwrap = b at *
  have : (a : Int) - b = ((a + 2 * s.cfg.fifoDepth - b : Nat) : Int) - ((2 * s.cfg.fifoDepth : Nat) : Int) := by omega
  rw [this, Int.sub_emod, Int.emod_self, Int.sub_zero, Int.emod_emod_of_dvd _ (dvd_refl _)]
  omega

/-- HEAD plus COUNT is TAIL, modulo N. -/
theorem head_add_count {s : State} (hh : s.head.toNat < s.cfg.fifoDepth) (ht : s.tail.toNat < s.cfg.fifoDepth) :
    (s.head.toNat + s.count) % s.cfg.fifoDepth = s.tail.toNat := by
  rw [count_eq hh]
  generalize hN : s.cfg.fifoDepth = n at *
  have key : ∀ (h t : Nat) (a b : Nat), h < n → t < n → (a = 0 ∨ a = n) → (b = 0 ∨ b = n) →
      (h + (t + b + 2 * n - (h + a)) % (2 * n)) % n = t := by
    intro h t a b h1 h2 h3 h4
    have hle : h + a ≤ t + b + 2 * n := by rcases h3 with rfl | rfl <;> omega
    have : (h + (t + b + 2 * n - (h + a)) % (2 * n)) % n = (h + (t + b + 2 * n - (h + a))) % n := by
      rw [Nat.add_mod, Nat.mod_mod_of_dvd _ (Dvd.intro_left 2 rfl), ← Nat.add_mod]
    rw [this]
    rcases h3 with rfl | rfl <;> rcases h4 with rfl | rfl
    · rw [show h + (t + 0 + 2 * n - (h + 0)) = t + n * 2 by omega, Nat.add_mul_mod_self_left, Nat.mod_eq_of_lt h2]
    · rw [show h + (t + b + 2 * b - (h + 0)) = t + b * 3 by omega, Nat.add_mul_mod_self_left, Nat.mod_eq_of_lt h2]
    · rw [show h + (t + 0 + 2 * a - (h + a)) = t + a * 1 by omega, Nat.add_mul_mod_self_left, Nat.mod_eq_of_lt h2]
    · rw [show h + (t + b + 2 * b - (h + b)) = t + b * 2 by omega, Nat.add_mul_mod_self_left, Nat.mod_eq_of_lt h2]
  unfold extended
  apply key _ _ _ _ hh ht
  · cases s.hwrap <;> simp
  · cases s.twrap <;> simp

/-- The facts about the FIFO that its operations use, from the invariant. -/
theorem fifoDepth_bounds {c : Config} (h : c.admitted = true) : 1 ≤ c.fifoDepth ∧ c.fifoDepth ≤ 65535 := by
  simp only [Config.admitted, Bool.and_eq_true, decide_eq_true_eq] at h
  tauto

/-- A push into a FIFO that is not full raises COUNT by one. -/
theorem pushFrame_count {s : State} (f : Frame) (hn : s.cfg.fifoDepth ≤ 65535)
    (hh : s.head.toNat < s.cfg.fifoDepth) (ht : s.tail.toNat < s.cfg.fifoDepth)
    (hc : s.count < s.cfg.fifoDepth) : (s.pushFrame f).count = s.count + 1 := by
  rw [count_eq (s := s.pushFrame f) (by simpa using hh)]
  rw [count_eq hh] at hc ⊢
  simp only [pushFrame_cfg, pushFrame_tail, pushFrame_twrap, pushFrame_head, pushFrame_hwrap]
  rw [advance_extended hn ht]
  have h1 := extended_lt hh s.hwrap
  have h2 := extended_lt ht s.twrap
  generalize s.cfg.fifoDepth = n at *
  generalize extended n s.tail s.twrap = a at *
  generalize extended n s.head s.hwrap = b at *
  rcases Nat.lt_or_ge a b with h | h
  · rw [Nat.mod_eq_of_lt (a := a + 2 * n - b) (by omega)] at hc ⊢
    rw [Nat.mod_eq_of_lt (a := a + 1) (by omega)]
    rw [Nat.mod_eq_of_lt (by omega)]; omega
  · have e : (a + 2 * n - b) % (2 * n) = a - b := by
      rw [show a + 2 * n - b = (a - b) + 2 * n by omega, Nat.add_mod_right, Nat.mod_eq_of_lt (by omega)]
    rw [e] at hc ⊢
    rcases Nat.lt_or_ge (a + 1) (2 * n) with h' | h'
    · rw [Nat.mod_eq_of_lt h', show a + 1 + 2 * n - b = (a - b + 1) + 2 * n by omega, Nat.add_mod_right,
        Nat.mod_eq_of_lt (by omega)]
    · have : a + 1 = 2 * n := by omega
      rw [this, Nat.mod_self, Nat.mod_eq_of_lt (by omega)]; omega

/-- A pop from a FIFO that is not empty lowers COUNT by one. -/
theorem popHead_count {s : State} (hn : s.cfg.fifoDepth ≤ 65535)
    (hh : s.head.toNat < s.cfg.fifoDepth) (ht : s.tail.toNat < s.cfg.fifoDepth)
    (hc : s.count ≠ 0) : s.popHead.count + 1 = s.count := by
  rw [count_eq (s := s.popHead) (by simpa using advance_lt hn hh s.hwrap)]
  rw [count_eq hh] at hc ⊢
  simp only [popHead_cfg, popHead_tail, popHead_twrap, popHead_head, popHead_hwrap]
  rw [advance_extended hn hh]
  have h1 := extended_lt hh s.hwrap
  have h2 := extended_lt ht s.twrap
  generalize s.cfg.fifoDepth = n at *
  generalize extended n s.tail s.twrap = a at *
  generalize extended n s.head s.hwrap = b at *
  rcases Nat.lt_or_ge a b with h | h
  · rw [Nat.mod_eq_of_lt (a := a + 2 * n - b) (by omega)] at hc ⊢
    rcases Nat.lt_or_ge (b + 1) (2 * n) with h' | h'
    · rw [Nat.mod_eq_of_lt h', Nat.mod_eq_of_lt (by omega)]; omega
    · have : b + 1 = 2 * n := by omega
      rw [this, Nat.mod_self, Nat.sub_zero, Nat.add_mod_right, Nat.mod_eq_of_lt (by omega)]; omega
  · have e : (a + 2 * n - b) % (2 * n) = a - b := by
      rw [show a + 2 * n - b = (a - b) + 2 * n by omega, Nat.add_mod_right, Nat.mod_eq_of_lt (by omega)]
    rw [e] at hc ⊢
    rw [Nat.mod_eq_of_lt (a := b + 1) (by omega), show a + 2 * n - (b + 1) = (a - b - 1) + 2 * n by omega,
      Nat.add_mod_right, Nat.mod_eq_of_lt (by omega)]
    omega

/-- An empty pointer pair counts 0. -/
theorem flushFifo_count (s : State) : s.flushFifo.count = 0 := by
  unfold State.count extended
  simp

/-! ## The FIFO as a queue -/

theorem queued_length (s : State) : s.queued.length = s.count := by
  simp [State.queued]

/-- A push into a FIFO that is not full appends its frame to the queue. -/
theorem pushFrame_queued {s : State} (f : Frame) (hn : s.cfg.fifoDepth ≤ 65535)
    (hl : s.slot.length = s.cfg.fifoDepth)
    (hh : s.head.toNat < s.cfg.fifoDepth) (ht : s.tail.toNat < s.cfg.fifoDepth)
    (hc : s.count < s.cfg.fifoDepth) : (s.pushFrame f).queued = s.queued ++ [f] := by
  unfold State.queued
  rw [pushFrame_count f hn hh ht hc, List.range_succ, List.map_append]
  simp only [pushFrame_head, pushFrame_cfg, List.map_cons, List.map_nil]
  congr 1
  · apply List.map_congr_left
    intro k hk
    rw [List.mem_range] at hk
    have hne : s.tail.toNat ≠ (s.head.toNat + k) % s.cfg.fifoDepth := by
      rw [← head_add_count hh ht]
      intro he
      have h2 := Nat.mod_eq_of_lt (a := k) (b := s.cfg.fifoDepth) (by omega)
      have h3 := Nat.mod_eq_of_lt hc
      have : (s.count : Nat) % s.cfg.fifoDepth = k % s.cfg.fifoDepth :=
        Nat.ModEq.add_left_cancel' s.head.toNat (show Nat.ModEq _ _ _ from he)
      omega
    simp [State.slotAt, hne]
  · rw [head_add_count hh ht]
    simp [State.slotAt, hl, ht]

/-- A pop from a FIFO that is not empty removes the frame at HEAD from the front of the queue. -/
theorem popHead_queued {s : State} (hn : s.cfg.fifoDepth ≤ 65535)
    (hh : s.head.toNat < s.cfg.fifoDepth) (ht : s.tail.toNat < s.cfg.fifoDepth)
    (hc : s.count ≠ 0) : s.queued = s.slotAt s.head.toNat :: s.popHead.queued := by
  unfold State.queued
  rw [← popHead_count hn hh ht hc, List.range_succ_eq_map, List.map_cons, List.map_map]
  simp only [popHead_head, popHead_cfg]
  rw [Nat.add_zero, Nat.mod_eq_of_lt hh]
  congr 1
  apply List.map_congr_left
  intro k _
  simp only [Function.comp_apply]
  rw [advance_mod hn hh, Nat.mod_add_mod, show s.head.toNat + 1 + k = s.head.toNat + k.succ by omega]
  rfl

/-- All that queueing a frame can do. -/
theorem enqueue_cases (s : State) (f : Frame) :
    (s.count = s.cfg.fifoDepth ∧ enqueue s f = (s, { b := false })) ∨
    (s.count ≠ s.cfg.fifoDepth ∧ enqueue s f = (s.pushFrame f, { b := true })) := by
  unfold enqueue State.fifoIsFull
  by_cases h : s.count = s.cfg.fifoDepth <;> simp [h]

/-- All that a pop can do. -/
theorem dequeue_cases (s : State) :
    (s.count = 0 ∧ dequeue s = (s, { v := false })) ∨
    (s.count ≠ 0 ∧ dequeue s = (s.popHead, { v := true, f := s.slotAt s.head.toNat })) := by
  unfold dequeue State.fifoIsEmpty
  by_cases h : s.count = 0 <;> simp [h]

/-! ## One gauge step -/

/-- All that one GAUGE.STEP can do to a gauge (42_stepper.md R252). -/
theorem stepGauge_cases (gc : GaugeCfg) (clock : Word) (r : GaugeRec) :
    (r.cur = r.tgt ∧ stepGauge gc clock r = (if gc.hold then r else { r with pins := 0 }, false)) ∨
    (r.cur ≠ r.tgt ∧ elapsed clock r.lastT < gc.stepDelay ∧ stepGauge gc clock r = (r, false)) ∨
    (r.cur ≠ r.tgt ∧ gc.stepDelay ≤ elapsed clock r.lastT ∧
      stepGauge gc clock r = (settleStep gc clock (towardTarget gc r), true)) := by
  unfold stepGauge GaugeRec.idle
  by_cases h : r.cur = r.tgt
  · simp [h]
  · by_cases h2 : elapsed clock r.lastT < gc.stepDelay
    · simp [h, h2]
    · simp [h, h2]; omega

/-- CUR after a move: one step toward TGT, never past it. -/
theorem towardTarget_cur (gc : GaugeCfg) (r : GaugeRec) (h : r.cur ≠ r.tgt) :
    (r.cur.toNat < r.tgt.toNat ∧ (towardTarget gc r).cur.toNat = r.cur.toNat + 1) ∨
    (r.tgt.toNat < r.cur.toNat ∧ (towardTarget gc r).cur.toNat + 1 = r.cur.toNat) := by
  have hne : r.cur.toNat ≠ r.tgt.toNat := fun e => h (BitVec.eq_of_toNat_eq e)
  have ht := r.tgt.isLt
  unfold towardTarget
  split
  · left
    refine ⟨‹_›, ?_⟩
    rw [BitVec.toNat_add]; simp; omega
  · right
    refine ⟨by omega, ?_⟩
    have hc := r.cur.isLt
    rw [BitVec.toNat_sub]; simp; omega

@[simp] theorem towardTarget_tgt (gc : GaugeCfg) (r : GaugeRec) : (towardTarget gc r).tgt = r.tgt := by
  unfold towardTarget; split <;> rfl

@[simp] theorem towardTarget_zstate (gc : GaugeCfg) (r : GaugeRec) : (towardTarget gc r).zstate = r.zstate := by
  unfold towardTarget; split <;> rfl

@[simp] theorem settleStep_cur (gc : GaugeCfg) (clock : Word) (r : GaugeRec) :
    (settleStep gc clock r).cur = r.cur := rfl

@[simp] theorem settleStep_tgt (gc : GaugeCfg) (clock : Word) (r : GaugeRec) :
    (settleStep gc clock r).tgt = r.tgt := rfl

@[simp] theorem settleStep_lastT (gc : GaugeCfg) (clock : Word) (r : GaugeRec) :
    (settleStep gc clock r).lastT = clock := rfl

@[simp] theorem settleStep_phase (gc : GaugeCfg) (clock : Word) (r : GaugeRec) :
    (settleStep gc clock r).phase = r.phase := rfl

/-! ## The target mapping -/

/-- TargetOf lies in 0..FULL_SCALE_g (42_stepper.md R244). -/
theorem targetOf_le (gc : GaugeCfg) (p : Int) : gc.targetOf p ≤ gc.fullScale := by
  unfold GaugeCfg.targetOf
  have h0 : 0 ≤ clampInt p 0 100 := by unfold clampInt; split <;> (try split) <;> omega
  have h1 : clampInt p 0 100 ≤ 100 := by unfold clampInt; split <;> (try split) <;> omega
  have h2 : clampInt p 0 100 * gc.fullScale ≤ 100 * gc.fullScale := by
    apply Int.mul_le_mul_of_nonneg_right h1; omega
  omega

/-! ## The fetch and the step -/

/-- All that the fetch of a step can be. -/
theorem fetch_cases (s : State) :
    (s.cfg.admitted = false ∧ fetch s = .done (.refused .badConfiguration)) ∨
    (s.cfg.admitted = true ∧ s.env = [] ∧ fetch s = .done (.next s)) ∨
    (s.cfg.admitted = true ∧ ∃ rest, s.env = .reset :: rest ∧ fetch s = .done (.next (s.afterReset rest))) ∨
    (s.cfg.admitted = true ∧ ∃ p cmd side rest, s.env = .offer p cmd side :: rest ∧
      ((s.mode.accepting = false ∧ fetch s = .done (.next (s.serving p rest))) ∨
        (s.mode.accepting = true ∧
          ((∃ i, decode cmd side = .ok i ∧ fetch s = .run i (s.serving p rest)) ∨
            (decode cmd side = .error .illegalOp ∧
              fetch s = .done (.next ((s.serving p rest).takeFault .illegalOp (cmdOp cmd)))) ∨
            (decode cmd side = .error .sideBandLength ∧ fetch s = .done (.fault .sideBandLength)))))) := by
  unfold fetch
  by_cases hc : s.cfg.admitted
  · rw [if_pos hc]
    match he : s.env with
    | [] => exact .inr (.inl ⟨hc, rfl, rfl⟩)
    | .reset :: rest => exact .inr (.inr (.inl ⟨hc, rest, rfl, rfl⟩))
    | .offer p cmd side :: rest =>
      refine .inr (.inr (.inr ⟨hc, p, cmd, side, rest, rfl, ?_⟩))
      unfold fetchOffer
      simp only [serving_mode]
      by_cases hm : s.mode.accepting
      · rw [if_pos hm]
        refine .inr ⟨hm, ?_⟩
        match decode cmd side with
        | .ok i => exact .inl ⟨i, rfl, rfl⟩
        | .error .illegalOp => exact .inr (.inl ⟨rfl, rfl⟩)
        | .error .sideBandLength => exact .inr (.inr ⟨rfl, rfl⟩)
      · rw [if_neg hm]
        exact .inl ⟨by simpa using hm, rfl⟩
  · rw [if_neg hc]
    exact .inl ⟨by simpa using hc, rfl⟩

/-- All that a step which answers a next state can be: the block waits; it is reset; an offer is not accepted; an offered
word is a reserved encoding; or the decoded command runs. -/
theorem step_cases {s t : State} (h : step s = .next t) :
    s.cfg.admitted = true ∧
    ((s.env = [] ∧ fetch s = .done (.next s) ∧ t = s) ∨
    (∃ rest, s.env = .reset :: rest ∧ fetch s = .done (.next t) ∧ t = s.afterReset rest) ∨
    (∃ p cmd side rest, s.env = .offer p cmd side :: rest ∧
      ((s.mode.accepting = false ∧ fetch s = .done (.next t) ∧ t = s.serving p rest) ∨
        (s.mode.accepting = true ∧ decode cmd side = .error .illegalOp ∧ fetch s = .done (.next t) ∧
          t = (s.serving p rest).takeFault .illegalOp (cmdOp cmd)) ∨
        (s.mode.accepting = true ∧ ∃ i, decode cmd side = .ok i ∧ fetch s = .run i (s.serving p rest) ∧
          exec i (s.serving p rest) = .next t)))) := by
  unfold step at h
  rcases fetch_cases s with ⟨_, hf⟩ | ⟨hc, he, hf⟩ | ⟨hc, rest, he, hf⟩ | ⟨hc, p, cmd, side, rest, he, hr⟩
  · rw [hf] at h; cases h
  · rw [hf] at h
    have : t = s := by cases h; rfl
    exact ⟨hc, .inl ⟨he, hf, this⟩⟩
  · rw [hf] at h
    have : t = s.afterReset rest := by cases h; rfl
    subst this
    exact ⟨hc, .inr (.inl ⟨rest, he, hf, rfl⟩)⟩
  · refine ⟨hc, .inr (.inr ⟨p, cmd, side, rest, he, ?_⟩)⟩
    rcases hr with ⟨hm, hf⟩ | ⟨hm, ⟨i, hd, hf⟩ | ⟨hd, hf⟩ | ⟨hd, hf⟩⟩
    · rw [hf] at h
      have : t = s.serving p rest := by cases h; rfl
      subst this
      exact .inl ⟨hm, hf, rfl⟩
    · rw [hf] at h
      exact .inr (.inr ⟨hm, i, hd, hf, h⟩)
    · rw [hf] at h
      have : t = (s.serving p rest).takeFault .illegalOp (cmdOp cmd) := by cases h; rfl
      subst this
      exact .inr (.inl ⟨hm, hd, hf, rfl⟩)
    · rw [hf] at h; cases h

end Sys2Proof.Machine
end

