-- ==== Sys2Proof/Laws/Exec.lean ====
section
/-! SUPPORT. What every command has in common: its meaning is one use of the shared handling, with checks that raise only the
faults listed for it (60_exceptions.md R321, R324). -/

namespace Sys2Proof.Machine

/-- The meaning of a command is the shared handling under its own opcode, whatever its checks and its effect; a check raises
only a fault that R321 lists for the command, never NONE. -/
theorem exec_eq_command (i : Instr) (s : State) : ∃ cs e, exec i s = command i.opcode s cs e ∧
    ∀ c ∈ cs, c.code ∈ faultsOf i.opcode := by
  cases i <;> first | refine ⟨_, _, rfl, ?_⟩ | refine ⟨[], _, rfl, ?_⟩
  all_goals
    simp [Instr.opcode, faultsOf, needsMask, needsFrame, needsRun, needsGauge, needsReady]

/-- No command can raise the code NONE, nor ILLEGAL_OP, which only the fetch raises. -/
theorem faultsOf_ne (op : Opcode) : FaultCode.none ∉ faultsOf op ∧ FaultCode.illegalOp ∉ faultsOf op := by
  cases op <;> decide

/-! ## The meaning of each command as one use of the shared handling -/

theorem exec_fifoPop_eq (s : State) : exec .fifoPop s =
    command .fifoPop s [] (dequeue s) := rfl

theorem exec_fifoEmpty_eq (s : State) : exec .fifoEmpty s =
    command .fifoEmpty s [] (s, { b := s.fifoIsEmpty }) := rfl

theorem exec_fifoFull_eq (s : State) : exec .fifoFull s =
    command .fifoFull s [] (s, { b := s.fifoIsFull }) := rfl

theorem exec_fifoFlush_eq (s : State) : exec .fifoFlush s =
    command .fifoFlush s [needsMask s] (s.flushFifo, {}) := rfl

theorem exec_fifoCount_eq (s : State) : exec .fifoCount s =
    command .fifoCount s [] (s, { d := BitVec.ofNat 32 s.count }) := rfl

theorem exec_canConfig_eq (entries : List FilterEntry) (s : State) : exec (.canConfig entries) s =
    command .canConfig s
      [⟨badFilterList s entries, .badFilterList⟩, needsMask s, ⟨s.cfgDone, .configTwice⟩]
      (State.emit { s with filt := installedFilters s.cfg.numFilters entries, cfgDone := true }
        (.cfgOut entries.length entries), {}) := rfl

theorem exec_canDispatch_eq (f : Frame) (s : State) : exec (.canDispatch f) s =
    command .canDispatch s [needsFrame f, needsRun s] (dispatchFrame s f) := rfl

theorem exec_canTransmit_eq (f : Frame) (s : State) : exec (.canTransmit f) s =
    command .canTransmit s [needsFrame f] (s.emit (.txReq f.id f.ext f.dlc f.payload), {}) := rfl

theorem exec_errDrain_eq (s : State) : exec .errDrain s =
    command .errDrain s []
      (if s.errFlag then State.emit { s with errFlag := false } (.diagErr s.errCode) else s,
        { b := s.errFlag, d := s.errCode }) := rfl

theorem exec_telemRead_eq (sig : Half) (s : State) : exec (.telemRead sig) s =
    command .telemRead s [⟨decide (s.cfg.numSignals ≤ sig.toNat), .badSignalIndex⟩] (s, { s := s.sigAt sig.toNat }) := rfl

theorem exec_gaugeZero_eq (g : BitVec 4) (s : State) : exec (.gaugeZero g) s =
    command .gaugeZero s
      [needsGauge s g, needsRun s, ⟨(s.gaugeAt g.toNat).zstate != .unzeroed, .gaugeSequence⟩]
      (s.putGauge g.toNat (zeroGauge (s.cfg.gaugeCfg g.toNat) s.clock (s.gaugeAt g.toNat)), {}) := rfl

theorem exec_gaugeSettgt_eq (g : BitVec 4) (p : Half) (s : State) : exec (.gaugeSettgt g p) s =
    command .gaugeSettgt s [needsGauge s g, needsReady s g]
      (s.putGauge g.toNat (retarget (s.cfg.gaugeCfg g.toNat) (percentOf p) (s.gaugeAt g.toNat)), {}) := rfl

theorem exec_gaugeStep_eq (g : BitVec 4) (s : State) : exec (.gaugeStep g) s =
    command .gaugeStep s
      [needsGauge s g, needsRun s, ⟨(s.gaugeAt g.toNat).zstate == .unzeroed, .gaugeSequence⟩]
      (s.putGauge g.toNat (stepGauge (s.cfg.gaugeCfg g.toNat) s.clock (s.gaugeAt g.toNat)).1,
        { b := (stepGauge (s.cfg.gaugeCfg g.toNat) s.clock (s.gaugeAt g.toNat)).2 }) := rfl

theorem exec_gaugeTrack_eq (g : BitVec 4) (s : State) : exec (.gaugeTrack g) s =
    command .gaugeTrack s [needsGauge s g, needsReady s g]
      (match trackedPercent s (s.cfg.gaugeCfg g.toNat) with
      | none => (s, { b := false })
      | some p => (s.putGauge g.toNat (retarget (s.cfg.gaugeCfg g.toNat) p (s.gaugeAt g.toNat)), { b := true })) := rfl

theorem exec_gaugeRead_eq (g : BitVec 4) (s : State) : exec (.gaugeRead g) s =
    command .gaugeRead s [needsGauge s g] (s, { q := s.gaugeAt g.toNat }) := rfl

theorem exec_clkInit_eq (ok : Bool) (s : State) : exec (.clkInit ok) s =
    command .clkInit s [⟨s.mode != .boot, .clockAlreadyInit⟩] ({ s with mode := if ok then .run else .halted }, {}) := rfl

theorem exec_clkRead_eq (s : State) : exec .clkRead s =
    command .clkRead s [] (s, { d := s.clock }) := rfl

theorem exec_irqEnable_eq (s : State) : exec .irqEnable s =
    command .irqEnable s [needsRun s] ({ s with irqEn := true }, {}) := rfl

theorem exec_irqDisable_eq (s : State) : exec .irqDisable s =
    command .irqDisable s [] ({ s with irqEn := false }, {}) := rfl

theorem exec_fifoPush_eq (f : Frame) (s : State) : exec (.fifoPush f) s =
    command .fifoPush s [needsFrame f] (enqueue s f) := rfl

theorem exec_canRx_eq (f : Frame) (s : State) : exec (.canRx f) s =
    command .canRx s
      [⟨!f.wellFormed || decide (s.cfg.numFilters ≤ f.slot.toNat), .badFrame⟩,
        ⟨!filterMatch (s.filtAt f.slot.toNat) f, .filterMismatch⟩]
      (enqueue s f) := rfl

theorem exec_canTxdone_eq (slot : BitVec 5) (s : State) : exec (.canTxdone slot) s =
    command .canTxdone s [] (s, {}) := rfl

theorem exec_canBuserr_eq (code : Word) (s : State) : exec (.canBuserr code) s =
    command .canBuserr s [] ({ s with errFlag := true, errCode := code }, {}) := rfl

theorem exec_clkTick_eq (s : State) : exec .clkTick s =
    command .clkTick s [] ({ s with clock := s.clock + 1 }, {}) := rfl

/-! ## Completion and faults on each port -/

/-- A command that is never gated, offered on the MAIN port, has its effect where no check applies. -/
theorem command_completes_main {s : State} {op : Opcode} {cs : List Check} {e : State × Result}
    (hm : s.mode.accepting = true) (hp : s.port = .main) (hc : op.context = .main) (hg : gateOf op = .always)
    (hf : firstFault cs = none) : command op s cs e = .next (e.1.deliver e.2) :=
  command_completes ((admits_iff s op).mpr ⟨hm, hp.trans hc.symm, by simp [State.gateOpen, hg]⟩) hf

/-- A command that is never gated, offered on the MAIN port, takes the fault of the first check that applies. -/
theorem command_faults_main {s : State} {op : Opcode} {cs : List Check} {e : State × Result} {code : FaultCode}
    (hm : s.mode.accepting = true) (hp : s.port = .main) (hc : op.context = .main) (hg : gateOf op = .always)
    (hf : firstFault cs = some code) : command op s cs e = .next (s.takeFault code op.code) :=
  command_faults ((admits_iff s op).mpr ⟨hm, hp.trans hc.symm, by simp [State.gateOpen, hg]⟩) hf

/-- A CAN-side command on the IRQ port with IRQ_EN = 1 has its effect where no check applies. -/
theorem command_completes_irq {s : State} {op : Opcode} {cs : List Check} {e : State × Result}
    (hm : s.mode.accepting = true) (hp : s.port = .irq) (hi : s.irqEn = true) (hc : op.context = .irq)
    (hg : gateOf op = .irqEnabled) (hf : firstFault cs = none) : command op s cs e = .next (e.1.deliver e.2) :=
  command_completes ((admits_iff s op).mpr ⟨hm, hp.trans hc.symm, by simp [State.gateOpen, hg, hi]⟩) hf

/-- A CAN-side command on the IRQ port with IRQ_EN = 1 takes the fault of the first check that applies. -/
theorem command_faults_irq {s : State} {op : Opcode} {cs : List Check} {e : State × Result} {code : FaultCode}
    (hm : s.mode.accepting = true) (hp : s.port = .irq) (hi : s.irqEn = true) (hc : op.context = .irq)
    (hg : gateOf op = .irqEnabled) (hf : firstFault cs = some code) :
    command op s cs e = .next (s.takeFault code op.code) :=
  command_faults ((admits_iff s op).mpr ⟨hm, hp.trans hc.symm, by simp [State.gateOpen, hg, hi]⟩) hf

end Sys2Proof.Machine
end

