-- ==== Sys2Proof/Laws/Inv.lean ====
section
/-! SUPPORT. What each shared operation does to the invariant of the block: one lemma per operation. -/

namespace Sys2Proof.Machine

/-- Delivering a result keeps the invariant. -/
theorem deliver_inv {s : State} (r : Result) (h : s.Inv) : (s.deliver r).Inv := by
  unfold State.deliver; split <;> exact h

/-- Taking a fault other than NONE keeps the invariant. -/
theorem takeFault_inv {s : State} {c : FaultCode} {o} (hc : c ≠ .none) (h : s.Inv) : (s.takeFault c o).Inv := by
  obtain ⟨h1, h2, h3, h4, h5, h6⟩ := h
  refine ⟨h1, h2, h3, h4, h5, ?_⟩
  simp [ModeInv, hc]

/-- Taking an offer from the environment keeps the invariant. -/
theorem serving_inv {s : State} (p es) (h : s.Inv) : (s.serving p es).Inv := h

/-- A push of a well-formed frame into a FIFO that is not full, with IRQ_EN = 1, keeps the invariant. -/
theorem pushFrame_inv {s : State} {f : Frame} (h : s.Inv) (hf : f.wellFormed = true) (hc :
    s.count ≠ s.cfg.fifoDepth) (hm : s.irqEn = true) : (s.pushFrame f).Inv := by
  obtain ⟨h1, ⟨a, b, c, d, e⟩, h3, h4, h5, h6⟩ := h
  have hb := fifoDepth_bounds h1
  refine ⟨h1, ⟨by simpa using a, b, advance_lt hb.2 c _, ?_, ?_⟩, h3, h4, h5, ?_⟩
  · rw [pushFrame_count f hb.2 b c (by omega)]; simp; omega
  · intro g hg
    simp at hg
    rcases List.mem_or_eq_of_mem_set hg with h | rfl
    · exact e g h
    · exact hf
  · refine ⟨?_, h6.2⟩
    intro hbt
    have := (h6.1 hbt).2.1
    simp [hm] at this

/-- A pop from a FIFO that is not empty keeps the invariant. -/
theorem popHead_inv {s : State} (h : s.Inv) (hc : s.count ≠ 0) : s.popHead.Inv := by
  obtain ⟨h1, ⟨a, b, c, d, e⟩, h3, h4, h5, h6⟩ := h
  have hb := fifoDepth_bounds h1
  have hp := popHead_count hb.2 b c hc
  refine ⟨h1, ⟨by simpa using a, advance_lt hb.2 b _, c, by simp; omega, e⟩, h3, h4, h5, ?_, h6.2⟩
  intro hbt
  exact absurd (h6.1 hbt).2.2.1 hc

/-- A flush keeps the invariant. -/
theorem flushFifo_inv {s : State} (h : s.Inv) : s.flushFifo.Inv := by
  obtain ⟨h1, ⟨a, b, c, d, e⟩, h3, h4, h5, h6⟩ := h
  have hb := fifoDepth_bounds h1
  refine ⟨h1, ⟨by simp, by simp; omega, by simp; omega, by rw [flushFifo_count]; simp, ?_⟩, h3, h4, h5, ?_, h6.2⟩
  · simp; intro _; decide
  · intro hbt
    obtain ⟨x1, x2, x3, x4⟩ := h6.1 hbt
    exact ⟨x1, x2, flushFifo_count s, x4⟩

/-- Writing a gauge record that keeps the gauge invariant keeps the invariant. -/
theorem putGauge_inv {s : State} {g : Nat} {r : GaugeRec} (h : s.Inv) (hr : GaugeInv (s.cfg.gaugeCfg g) r) (hm :
    (s.gaugeAt g).zstate ≠ .unzeroed ∨ s.mode = .run) : (s.putGauge g r).Inv := by
  obtain ⟨h1, h2, h3, h4, h5, h6⟩ := h
  refine ⟨h1, h2, h3, h4, ⟨by simpa using h5.1, ?_⟩, ?_, h6.2⟩
  · intro k hk
    rw [putGauge_gaugeAt]
    split
    · rename_i hh; obtain ⟨rfl, _⟩ := hh; exact hr
    · exact h5.2 k hk
  · intro hbt
    obtain ⟨x1, x2, x3, x4, x5, x6⟩ := h6.1 hbt
    refine ⟨x1, x2, x3, x4, x5, ?_⟩
    rcases hm with hm | hm
    · have : s.gaugeAt g = GaugeRec.zero := by
        unfold State.gaugeAt
        rw [List.getD_eq_getElem?_getD]
        cases hq : s.gauge[g]? with
        | none => rfl
        | some q => exact x6 q (List.mem_of_getElem? hq)
      rw [this] at hm; exact absurd rfl hm
    · simp [hm] at hbt

/-- Each gauge of an admitted configuration is admitted. -/
theorem gaugeCfg_admitted {c : Config} (h : c.admitted = true) {g : Nat} (hg : g < c.numGauges) :
    (c.gaugeCfg g).admitted c.numSignals = true := by
  simp only [Config.admitted, Bool.and_eq_true, List.all_eq_true] at h
  apply h.2
  unfold Config.gaugeCfg
  have : g < c.gauges.length := hg
  simp [List.getD_eq_getElem?_getD, this]

/-- The bounds of an admitted gauge that its operations use. -/
theorem gaugeCfg_bounds {n} {gc : GaugeCfg} (h : gc.admitted n = true) :
    (gc.phaseLen = 4 ∨ gc.phaseLen = 8) ∧ gc.fullScale ≤ 65535 ∧ gc.zeroRun ≤ 65535 := by
  simp only [GaugeCfg.admitted, Bool.and_eq_true, decide_eq_true_eq, Bool.or_eq_true, beq_iff_eq] at h
  refine ⟨by tauto, by omega, by omega⟩

/-- Zeroing an UNZEROED gauge keeps its invariant. -/
theorem zeroGauge_inv {n} {gc : GaugeCfg} (ha : gc.admitted n = true) {r : GaugeRec} {clock} (h :
    GaugeInv gc r) (hz : r.zstate = .unzeroed) : GaugeInv gc (zeroGauge gc clock r) := by
  obtain ⟨f1, f2, f3⟩ := gaugeCfg_bounds ha
  have hr := h.2.2.1 hz
  subst hr
  unfold zeroGauge
  split
  · refine ⟨by simp; omega, by simp [GaugeRec.zero], by simp, by simp, by simp⟩
  · rename_i hh
    simp only [not_or] at hh
    refine ⟨by simp; omega, by simp [GaugeRec.zero], by simp, ?_, by simp⟩
    intro _
    have : gc.zeroRun % 65536 = gc.zeroRun := Nat.mod_eq_of_lt (by omega)
    refine ⟨by cases hq : gc.zeroMode <;> simp_all, rfl, ?_, ?_⟩ <;> simp [this] <;> omega

/-- A new target of a READY gauge keeps its invariant. -/
theorem retarget_inv {n} {gc : GaugeCfg} (ha : gc.admitted n = true) {r : GaugeRec} {p} (h : GaugeInv gc r)
    (hz : r.zstate = .ready) : GaugeInv gc (retarget gc p r) := by
  obtain ⟨f1, f2, f3⟩ := gaugeCfg_bounds ha
  have := targetOf_le gc p
  refine ⟨h.1, h.2.1, by simp [retarget, hz], by simp [retarget, hz], ?_⟩
  intro _
  refine ⟨(h.2.2.2.2 hz).1, ?_⟩
  simp [retarget]
  rw [Nat.mod_eq_of_lt (by omega)]; exact this

/-- One step of a gauge that is not UNZEROED keeps its invariant. -/
theorem stepGauge_inv {n} {gc : GaugeCfg} (ha : gc.admitted n = true) {r : GaugeRec} {clock} (h :
    GaugeInv gc r) (hz : r.zstate ≠ .unzeroed) : GaugeInv gc (stepGauge gc clock r).1 := by
  obtain ⟨f1, f2, f3⟩ := gaugeCfg_bounds ha
  rcases stepGauge_cases gc clock r with ⟨_, e⟩ | ⟨_, _, e⟩ | ⟨hne, _, e⟩
  · rw [e]; simp only
    split
    · exact h
    · exact ⟨h.1, .inl rfl, fun hx => absurd hx hz, h.2.2.2.1, h.2.2.2.2⟩
  · rw [e]; exact h
  · rw [e]; simp only
    have hc := towardTarget_cur gc r hne
    have hph : (towardTarget gc r).phase.toNat < gc.phaseLen := by
      unfold towardTarget phaseUp phaseDown
      split <;> simp <;> (apply lt_of_le_of_lt (Nat.mod_le _ _); apply Nat.mod_lt; omega)
    refine ⟨hph, ?_, ?_, ?_, ?_⟩
    · unfold settleStep; simp only; split <;> simp
    · unfold settleStep; simp only; split
      · simp
      · simp [hz]
    · intro hx
      have hidle : ¬ ((towardTarget gc r).idle = true ∧ r.zstate = .zeroing) := by
        intro hh; unfold settleStep at hx; simp [hh] at hx
      have hzz : r.zstate = .zeroing := by
        unfold settleStep at hx; simp only at hx; split at hx
        · cases hx
        · simpa using hx
      obtain ⟨y1, y2, y3, y4⟩ := h.2.2.2.1 hzz
      have : (towardTarget gc r).cur ≠ r.tgt := by
        intro hh; apply hidle; refine ⟨?_, hzz⟩; unfold GaugeRec.idle; simp [hh]
      have hne2 : (towardTarget gc r).cur.toNat ≠ r.tgt.toNat := fun e => this (BitVec.eq_of_toNat_eq e)
      simp [y2] at hc hne2
      refine ⟨y1, by simpa using y2, ?_, ?_⟩ <;> simp <;> omega
    · intro hx
      simp only [settleStep_cur, settleStep_tgt, towardTarget_tgt]
      by_cases hzz : r.zstate = .zeroing
      · obtain ⟨y1, y2, y3, y4⟩ := h.2.2.2.1 hzz
        unfold settleStep at hx; simp [hzz] at hx
        have : (towardTarget gc r).cur = 0 := by
          have := hx; unfold GaugeRec.idle at this; simpa [y2] using this
        simp [this, y2]
      · have hr : r.zstate = .ready := by cases hq : r.zstate <;> simp_all
        have := h.2.2.2.2 hr
        rcases hc with hc | hc <;> omega

/-- Dispatching a well-formed frame in RUN keeps the invariant. -/
theorem dispatchFrame_inv {s : State} {f : Frame} (h : s.Inv) (hf : f.wellFormed = true) (hm : s.mode = .run) :
    (dispatchFrame s f).1.Inv := by
  unfold dispatchFrame
  split
  · exact h
  · rename_i e he
    obtain ⟨h1, h2, h3, h4, h5, h6⟩ := h
    refine ⟨h1, h2, h3, ?_, h5, ?_, h6.2⟩
    · let ok : List SigRec → Prop := fun sg => sg.length = s.cfg.numSignals ∧
        ∀ r ∈ sg, (r.valid = false → r = SigRec.zero) ∧ (r.srcExt = false → r.srcId.extractLsb' 11 18 = 0)
      have key : ∀ (l : List FieldDesc) (sg : List SigRec), ok sg → ok (l.foldl (writeField f s.clock) sg) := by
        intro l
        induction l with
        | nil => intro sg h; exact h
        | cons d l ih =>
          intro sg h
          apply ih
          unfold writeField
          split
          · refine ⟨by simpa using h.1, ?_⟩
            intro r hr
            rcases List.mem_or_eq_of_mem_set hr with hr | rfl
            · exact h.2 r hr
            · refine ⟨by simp, ?_⟩
              intro hx
              simp only [Frame.wellFormed, Bool.and_eq_true, Bool.or_eq_true, beq_iff_eq] at hf
              simp at hx; simp [hx] at hf
              exact hf.1.1.2
          · exact h
      exact key _ _ h4
    · intro hbt; simp [hm] at hbt

end Sys2Proof.Machine
end

