-- ==== Sys2Proof/Laws/Params.lean ====
section
/-! SUPPORT. The plain-data form of MAP_g holds every total function from uint16 to int32 (00_scope.md R7), so it leaves no
deployment's map out. -/

namespace Sys2Proof

/-- The segment that sends one raw value to one percent. -/
def pointSegment (f : Half → BitVec 32) (raw : Half) : MapSegment := ⟨raw, raw, 0, (f raw).toInt, 1⟩

theorem pointSegment_covers (f : Half → BitVec 32) (a b : Half) : (pointSegment f a).covers b = decide (a = b) := by
  rw [Bool.eq_iff_iff]
  unfold MapSegment.covers
  rw [Bool.and_eq_true, decide_eq_true_iff, decide_eq_true_iff, decide_eq_true_iff, ← BitVec.toNat_inj]
  exact ⟨fun h => Nat.le_antisymm h.1 h.2, fun h => ⟨Nat.le_of_eq h, Nat.le_of_eq h.symm⟩⟩

/-- Among point segments the first that covers a raw value is its own. -/
theorem find_pointSegment (f : Half → BitVec 32) (raw : Half) (l : List Half) (h : raw ∈ l) :
    (l.map (pointSegment f)).find? (·.covers raw) = some (pointSegment f raw) := by
  induction l with
  | nil => cases h
  | cons a l ih =>
    rw [List.map_cons, List.find?_cons, pointSegment_covers]
    by_cases ha : a = raw
    · simp [ha]
    · simp only [ha, decide_false]
      exact ih (by simpa [Ne.symm ha] using h)

/-- Every total function from uint16 to int32 is the meaning of some `GaugeMap`. -/
theorem gaugeMap_complete (f : Half → BitVec 32) : ∃ m : GaugeMap, ∀ raw, m.eval raw = f raw := by
  refine ⟨⟨((List.range 65536).map (BitVec.ofNat 16)).map (pointSegment f), 0⟩, fun raw => ?_⟩
  unfold GaugeMap.eval
  rw [find_pointSegment f raw _ (List.mem_map.mpr ⟨raw.toNat, List.mem_range.mpr raw.isLt, by simp⟩)]
  simp [pointSegment]

end Sys2Proof
end

