-- ==== Sys2Proof/Laws/PerInstr.lean ====
section
/-! SUPPORT. For each command: its command word satisfies the match/mask pair of its own row of the opcode map, so its OP, its
reserved bits and its unused fields are as 30_encoding.md R110 to R115 say. -/

namespace Sys2Proof.Laws.Row

/-- The command word of `i` satisfies the match/mask pair of a row of `i`'s own opcode (30_encoding.md R115). -/
def Statement (i : Instr) : Prop := ∃ r ∈ rows, r.op = i.opcode ∧ r.accepts (encodeCmd i) = true

/-- What a row asks of a packed command word, field by field. -/
theorem accepts_packed {r : Row} {op : BitVec 6} {g : BitVec 4} {imm : Half}
    (hi : imm &&& cmdImm r.mask = cmdImm r.pattern) (h1 : cmdRsv1 r.pattern = 0)
    (hg : g &&& cmdG r.mask = cmdG r.pattern) (h0 : cmdRsv0 r.pattern = 0)
    (ho : op &&& cmdOp r.mask = cmdOp r.pattern) : r.accepts (packCmd op g imm) = true := by
  rw [accepts_iff]
  simp [hi, h1, hg, h0, ho]

/-- A field that a row does not fix passes its mask. -/
theorem and_zero_mask {n : Nat} {x m p : BitVec n} (hm : m = 0) (hp : p = 0) : x &&& m = p := by
  rw [hm, hp]; simp

theorem fifoPop : Statement .fifoPop :=
  ⟨⟨.fifoPop, 0x00000001, 0xFFFFFFFF⟩, by simp [rows], rfl,
    accepts_packed (op := Opcode.fifoPop.code) (g := 0) (imm := 0) (rfl) rfl (rfl) rfl rfl⟩

theorem fifoEmpty : Statement .fifoEmpty :=
  ⟨⟨.fifoEmpty, 0x00000002, 0xFFFFFFFF⟩, by simp [rows], rfl,
    accepts_packed (op := Opcode.fifoEmpty.code) (g := 0) (imm := 0) (rfl) rfl (rfl) rfl rfl⟩

theorem fifoFull : Statement .fifoFull :=
  ⟨⟨.fifoFull, 0x00000003, 0xFFFFFFFF⟩, by simp [rows], rfl,
    accepts_packed (op := Opcode.fifoFull.code) (g := 0) (imm := 0) (rfl) rfl (rfl) rfl rfl⟩

theorem fifoFlush : Statement .fifoFlush :=
  ⟨⟨.fifoFlush, 0x00000004, 0xFFFFFFFF⟩, by simp [rows], rfl,
    accepts_packed (op := Opcode.fifoFlush.code) (g := 0) (imm := 0) (rfl) rfl (rfl) rfl rfl⟩

theorem fifoCount : Statement .fifoCount :=
  ⟨⟨.fifoCount, 0x00000005, 0xFFFFFFFF⟩, by simp [rows], rfl,
    accepts_packed (op := Opcode.fifoCount.code) (g := 0) (imm := 0) (rfl) rfl (rfl) rfl rfl⟩

theorem canConfig (entries : List FilterEntry) : Statement (.canConfig entries) :=
  ⟨⟨.canConfig, 0x00000008, 0x0000FFFF⟩, by simp [rows], rfl,
    accepts_packed (op := Opcode.canConfig.code) (g := 0) (and_zero_mask rfl rfl) rfl (rfl) rfl rfl⟩

theorem canDispatch (f : Frame) : Statement (.canDispatch f) :=
  ⟨⟨.canDispatch, 0x00000009, 0xFFFFFFFF⟩, by simp [rows], rfl,
    accepts_packed (op := Opcode.canDispatch.code) (g := 0) (imm := 0) (rfl) rfl (rfl) rfl rfl⟩

theorem canTransmit (f : Frame) : Statement (.canTransmit f) :=
  ⟨⟨.canTransmit, 0x0000000A, 0xFFFFFFFF⟩, by simp [rows], rfl,
    accepts_packed (op := Opcode.canTransmit.code) (g := 0) (imm := 0) (rfl) rfl (rfl) rfl rfl⟩

theorem errDrain : Statement .errDrain :=
  ⟨⟨.errDrain, 0x0000000B, 0xFFFFFFFF⟩, by simp [rows], rfl,
    accepts_packed (op := Opcode.errDrain.code) (g := 0) (imm := 0) (rfl) rfl (rfl) rfl rfl⟩

theorem telemRead (sig : Half) : Statement (.telemRead sig) :=
  ⟨⟨.telemRead, 0x0000000C, 0x0000FFFF⟩, by simp [rows], rfl,
    accepts_packed (op := Opcode.telemRead.code) (g := 0) (and_zero_mask rfl rfl) rfl (rfl) rfl rfl⟩

theorem gaugeZero (g : BitVec 4) : Statement (.gaugeZero g) :=
  ⟨⟨.gaugeZero, 0x00000010, 0xFFFFF0FF⟩, by simp [rows], rfl,
    accepts_packed (op := Opcode.gaugeZero.code) (imm := 0) (rfl) rfl (and_zero_mask rfl rfl) rfl rfl⟩

theorem gaugeSettgt (g : BitVec 4) (p : Half) : Statement (.gaugeSettgt g p) :=
  ⟨⟨.gaugeSettgt, 0x00000011, 0x0000F0FF⟩, by simp [rows], rfl,
    accepts_packed (op := Opcode.gaugeSettgt.code) (and_zero_mask rfl rfl) rfl (and_zero_mask rfl rfl) rfl rfl⟩

theorem gaugeStep (g : BitVec 4) : Statement (.gaugeStep g) :=
  ⟨⟨.gaugeStep, 0x00000012, 0xFFFFF0FF⟩, by simp [rows], rfl,
    accepts_packed (op := Opcode.gaugeStep.code) (imm := 0) (rfl) rfl (and_zero_mask rfl rfl) rfl rfl⟩

theorem gaugeTrack (g : BitVec 4) : Statement (.gaugeTrack g) :=
  ⟨⟨.gaugeTrack, 0x00000013, 0xFFFFF0FF⟩, by simp [rows], rfl,
    accepts_packed (op := Opcode.gaugeTrack.code) (imm := 0) (rfl) rfl (and_zero_mask rfl rfl) rfl rfl⟩

theorem gaugeRead (g : BitVec 4) : Statement (.gaugeRead g) :=
  ⟨⟨.gaugeRead, 0x00000014, 0xFFFFF0FF⟩, by simp [rows], rfl,
    accepts_packed (op := Opcode.gaugeRead.code) (imm := 0) (rfl) rfl (and_zero_mask rfl rfl) rfl rfl⟩

theorem clkInit (ok : Bool) : Statement (.clkInit ok) :=
  ⟨⟨.clkInit, 0x00000018, 0xFFFEFFFF⟩, by simp [rows], rfl,
    accepts_packed (op := Opcode.clkInit.code) (g := 0) (by cases ok <;> rfl) rfl (rfl) rfl rfl⟩

theorem clkRead : Statement .clkRead :=
  ⟨⟨.clkRead, 0x00000019, 0xFFFFFFFF⟩, by simp [rows], rfl,
    accepts_packed (op := Opcode.clkRead.code) (g := 0) (imm := 0) (rfl) rfl (rfl) rfl rfl⟩

theorem irqEnable : Statement .irqEnable :=
  ⟨⟨.irqEnable, 0x0000001A, 0xFFFFFFFF⟩, by simp [rows], rfl,
    accepts_packed (op := Opcode.irqEnable.code) (g := 0) (imm := 0) (rfl) rfl (rfl) rfl rfl⟩

theorem irqDisable : Statement .irqDisable :=
  ⟨⟨.irqDisable, 0x0000001B, 0xFFFFFFFF⟩, by simp [rows], rfl,
    accepts_packed (op := Opcode.irqDisable.code) (g := 0) (imm := 0) (rfl) rfl (rfl) rfl rfl⟩

theorem fifoPush (f : Frame) : Statement (.fifoPush f) :=
  ⟨⟨.fifoPush, 0x00000020, 0xFFFFFFFF⟩, by simp [rows], rfl,
    accepts_packed (op := Opcode.fifoPush.code) (g := 0) (imm := 0) (rfl) rfl (rfl) rfl rfl⟩

theorem canRx (f : Frame) : Statement (.canRx f) :=
  ⟨⟨.canRx, 0x00000021, 0xFFFFFFFF⟩, by simp [rows], rfl,
    accepts_packed (op := Opcode.canRx.code) (g := 0) (imm := 0) (rfl) rfl (rfl) rfl rfl⟩

theorem canTxdone (slot : BitVec 5) : Statement (.canTxdone slot) :=
  ⟨⟨.canTxdone, 0x00000022, 0xFFE0FFFF⟩, by simp [rows], rfl,
    accepts_packed (op := Opcode.canTxdone.code) (g := 0) (by revert slot; decide) rfl (rfl) rfl rfl⟩

theorem canBuserr (code : Word) : Statement (.canBuserr code) :=
  ⟨⟨.canBuserr, 0x00000023, 0xFFFFFFFF⟩, by simp [rows], rfl,
    accepts_packed (op := Opcode.canBuserr.code) (g := 0) (imm := 0) (rfl) rfl (rfl) rfl rfl⟩

theorem clkTick : Statement .clkTick :=
  ⟨⟨.clkTick, 0x00000024, 0xFFFFFFFF⟩, by simp [rows], rfl,
    accepts_packed (op := Opcode.clkTick.code) (g := 0) (imm := 0) (rfl) rfl (rfl) rfl rfl⟩

end Sys2Proof.Laws.Row
end

