-- ==== Sys2Proof/Machine/Assembler.lean ====
section
/-! DEFINITION. The assembler (30_encoding.md R115, R127, R129): the full spelling of each command, every field written out,
and the reading of a command line into the port it names and its command. -/

namespace Sys2Proof

/-- The mnemonic of each opcode (30_encoding.md R115). -/
def Opcode.mnemonic : Opcode → String
  | .fifoPop => "FIFO.POP"
  | .fifoEmpty => "FIFO.EMPTY"
  | .fifoFull => "FIFO.FULL"
  | .fifoFlush => "FIFO.FLUSH"
  | .fifoCount => "FIFO.COUNT"
  | .canConfig => "CAN.CONFIG"
  | .canDispatch => "CAN.DISPATCH"
  | .canTransmit => "CAN.TRANSMIT"
  | .errDrain => "ERR.DRAIN"
  | .telemRead => "TELEM.READ"
  | .gaugeZero => "GAUGE.ZERO"
  | .gaugeSettgt => "GAUGE.SETTGT"
  | .gaugeStep => "GAUGE.STEP"
  | .gaugeTrack => "GAUGE.TRACK"
  | .gaugeRead => "GAUGE.READ"
  | .clkInit => "CLK.INIT"
  | .clkRead => "CLK.READ"
  | .irqEnable => "IRQ.ENABLE"
  | .irqDisable => "IRQ.DISABLE"
  | .fifoPush => "FIFO.PUSH"
  | .canRx => "CAN.RX"
  | .canTxdone => "CAN.TXDONE"
  | .canBuserr => "CAN.BUSERR"
  | .clkTick => "CLK.TICK"

/-- A number in the assembler's hexadecimal spelling. -/
def hexNumber (n : Nat) : String := "0x" ++ String.ofList (Nat.toDigits 16 n)

/-- Text between braces. -/
def braced (s : String) : String := String.ofList [Char.ofNat 0x7B] ++ s ++ String.ofList [Char.ofNat 0x7D]

/-- A bit as 0 or 1. -/
def bitText (b : Bool) : String := if b then "1" else "0"

/-- A frame literal: its identifier, EXT, DLC, SLOT and all eight payload bytes (R127). -/
def Frame.text (f : Frame) : String :=
  braced ("id=" ++ hexNumber f.id.toNat ++ ", ext=" ++ bitText f.ext ++ ", dlc=" ++ toString f.dlc.toNat ++
    ", slot=" ++ toString f.slot.toNat ++
    ", data=[" ++ String.intercalate ", " ((List.range 8).map fun k => hexNumber (f.byte k).toNat) ++ "]")

/-- A filter entry (R127). -/
def FilterEntry.text (e : FilterEntry) : String :=
  braced ("id=" ++ hexNumber e.id.toNat ++ ", mask=" ++ hexNumber e.mask.toNat ++ ", ext=" ++ bitText e.ext)

/-- A gauge operand `g<n>`. -/
def gaugeText (g : BitVec 4) : String := "g" ++ toString g.toNat

/-- The operands of a command in their order (R127). -/
def Instr.operandTexts : Instr → List String
  | .canConfig entries => entries.map FilterEntry.text
  | .canDispatch f | .canTransmit f | .fifoPush f | .canRx f => [f.text]
  | .telemRead sig => ["s" ++ toString sig.toNat]
  | .gaugeZero g | .gaugeStep g | .gaugeTrack g | .gaugeRead g => [gaugeText g]
  | .gaugeSettgt g p => [gaugeText g, toString p.toInt]
  | .clkInit ok => [if ok then "ok" else "fail"]
  | .canTxdone slot => [toString slot.toNat]
  | .canBuserr code => [toString code.toNat]
  | .fifoPop | .fifoEmpty | .fifoFull | .fifoFlush | .fifoCount | .errDrain | .clkRead | .irqEnable | .irqDisable
  | .clkTick => []

/-- The assembler line of a command, without the optional port before it (R127). -/
def Instr.line (i : Instr) : String :=
  match i.operandTexts with
  | [] => i.opcode.mnemonic
  | x :: xs => i.opcode.mnemonic ++ " " ++ String.intercalate ", " (x :: xs)

/-- The assembler's name of a port before a line (R127). -/
def Port.text : Port → String
  | .main => "main:"
  | .irq => "irq:"

/-- A 32-bit word as 8 hexadecimal digits (30_encoding.md R129). -/
def wordText (w : Word) : String :=
  let digits := (Nat.toDigits 16 w.toNat).map Char.toUpper
  "0x" ++ String.ofList (List.replicate (8 - digits.length) '0' ++ digits)

/-- The encoding of a command line: the command word, then its side-band words (30_encoding.md R129). -/
def Instr.encodingTexts (i : Instr) : List String := (encode i).map wordText

/-! ## Reading a line (R127) -/

/-- The pieces of a line. -/
inductive Token where
  | word (text : String)
  | equals
  | comma
  | colon
  | openBrace
  | closeBrace
  | openBracket
  | closeBracket
  deriving DecidableEq, Repr

/-- The punctuation of the syntax, by character code. -/
def punctuation (c : Char) : Option Token :=
  if c = '=' then some .equals
  else if c = ',' then some .comma
  else if c = ':' then some .colon
  else if c.toNat = 0x7B then some .openBrace
  else if c.toNat = 0x7D then some .closeBrace
  else if c = '[' then some .openBracket
  else if c = ']' then some .closeBracket
  else none

/-- The word read so far, if any. -/
def finished (cur : List Char) : List Token := if cur.isEmpty then [] else [.word (String.ofList cur)]

/-- A line as tokens; blanks (the space character alone) only separate, so they may stand or be left out beside any
punctuation (DESIGN CHOICE, assumption log entry 12). `cur` is the word being read. -/
def tokens : List Char → List Char → List Token
  | [], cur => finished cur
  | c :: cs, cur =>
    match punctuation c with
    | some t => finished cur ++ t :: tokens cs []
    | none => if c = ' ' then finished cur ++ tokens cs [] else tokens cs (cur ++ [c])

/-- The value of a digit. -/
def digitOf (c : Char) : Option Nat :=
  if '0' ≤ c ∧ c ≤ '9' then some (c.toNat - 48)
  else if 'a' ≤ c ∧ c ≤ 'f' then some (c.toNat - 87)
  else if 'A' ≤ c ∧ c ≤ 'F' then some (c.toNat - 55)
  else none

/-- Digits in a base, after the value `acc` of the digits before them. -/
def digitsIn (base : Nat) : Nat → List Char → Option Nat
  | acc, [] => some acc
  | acc, c :: cs =>
    match digitOf c with
    | some d => if d < base then digitsIn base (acc * base + d) cs else none
    | none => none

/-- A number: decimal, or hexadecimal after `0x`; leading zeros are allowed. DESIGN CHOICE (assumption log entry 12): R127 does
not say what a number looks like. -/
def numberOf (cs : List Char) : Option Nat :=
  match cs with
  | '0' :: 'x' :: d :: ds => digitsIn 16 0 (d :: ds)
  | d :: ds => digitsIn 10 0 (d :: ds)
  | [] => none

/-- A number below a bound. -/
def numberBelow (bound : Nat) (text : String) : Option Nat :=
  match numberOf text.toList with
  | some n => if n < bound then some n else none
  | none => none

/-- The percent of GAUGE.SETTGT: a number that may be negative, in the range of a signed 16-bit immediate (R113). DESIGN
CHOICE (assumption log entry 12): the sign is `-` before a number of either spelling, and there is no `+`. -/
def percentText (text : String) : Option Half :=
  match text.toList with
  | '-' :: ds =>
    match numberOf ds with
    | some n => if n ≤ 32768 then some (BitVec.ofInt 16 (-(n : Int))) else none
    | none => none
  | ds =>
    match numberOf ds with
    | some n => if n < 32768 then some (BitVec.ofNat 16 n) else none
    | none => none

/-- An index written after a letter, `g<n>` or `s<n>`. -/
def indexAfter (letter : Char) (bound : Nat) (text : String) : Option Nat :=
  match text.toList with
  | c :: ds => if c = letter then numberBelow bound (String.ofList ds) else none
  | [] => none

/-- The value of one field of a frame literal or a filter entry. -/
inductive FieldText where
  | single (text : String)
  | many (texts : List String)
  deriving DecidableEq, Repr

/-- The rest of a `[<b0>, ...]` list of one or more bytes, after its open bracket, and the tokens after it. A comma must be
followed by a byte. -/
def bracketed : List Token → Option (List String × List Token)
  | .word w :: .closeBracket :: ts => some ([w], ts)
  | .word w :: .comma :: ts =>
    match bracketed ts with
    | some (ws, rest) => some (w :: ws, rest)
    | none => none
  | _ => none

/-- The rest of a literal after its open brace: its fields, and the tokens after it. `fuel` bounds the number of fields.
DESIGN CHOICE (assumption log entry 12): the fields may stand in any order, and `data=[]` is a list of no bytes. -/
def literalFields : Nat → List Token → Option (List (String × FieldText) × List Token)
  | 0, _ => none
  | fuel + 1, .word key :: .equals :: ts =>
    let value : Option (FieldText × List Token) :=
      match ts with
      | .word w :: rest => some (.single w, rest)
      | .openBracket :: .closeBracket :: rest => some (.many [], rest)
      | .openBracket :: rest => (bracketed rest).map fun x => (.many x.1, x.2)
      | _ => none
    match value with
    | some (v, .closeBrace :: rest) => some ([(key, v)], rest)
    | some (v, .comma :: rest) => (literalFields fuel rest).map fun x => ((key, v) :: x.1, x.2)
    | _ => none
  | _ + 1, _ => none

/-- A numeric field of a literal; `absent` is its value where it is omitted, none where it may not be. -/
def fieldNumber (fields : List (String × FieldText)) (key : String) (bound : Nat) (absent : Option Nat) : Option Nat :=
  match fields.lookup key with
  | some (.single w) => numberBelow bound w
  | some (.many _) => none
  | none => absent

/-- The payload bytes of a frame literal; omitted bytes are 0. -/
def fieldBytes (fields : List (String × FieldText)) : Option (List Nat) :=
  match fields.lookup "data" with
  | some (.many ws) => if ws.length ≤ 8 then ws.mapM (numberBelow 256) else none
  | some (.single _) => none
  | none => some []

/-- Four payload bytes packed into a word, the first in the low bits (R120). -/
def packBytes (bs : List Nat) : Word :=
  BitVec.ofNat 32 (bs.getD 0 0 + 2 ^ 8 * bs.getD 1 0 + 2 ^ 16 * bs.getD 2 0 + 2 ^ 24 * bs.getD 3 0)

/-- Only these keys occur, none twice. -/
def keysAmong (fields : List (String × FieldText)) (keys : List String) : Bool :=
  fields.all (keys.contains ·.1) && decide (fields.map Prod.fst).Nodup

/-- A frame literal as its FRAME record; omitted `ext`, `slot` and data bytes are 0 (R127). The record need not be
well-formed. DESIGN CHOICE (assumption log entry 12): data bytes past `dlc` are kept as they are written. -/
def frameOf (fields : List (String × FieldText)) : Option Frame := do
  let id ← fieldNumber fields "id" (2 ^ 29) none
  let ext ← fieldNumber fields "ext" 2 (some 0)
  let dlc ← fieldNumber fields "dlc" 16 none
  let slot ← fieldNumber fields "slot" 32 (some 0)
  let bytes ← fieldBytes fields
  if keysAmong fields ["id", "ext", "dlc", "slot", "data"] then
    some ⟨BitVec.ofNat 32 (id + 2 ^ 29 * ext), BitVec.ofNat 32 (dlc + 2 ^ 4 * slot), packBytes bytes,
      packBytes (bytes.drop 4)⟩
  else none

/-- A filter entry literal as its FILTER record (R122). DESIGN CHOICE (assumption log entry 12): `ext` omitted is 0; R127
gives that default for a frame literal alone. -/
def filterOf (fields : List (String × FieldText)) : Option FilterEntry := do
  let id ← fieldNumber fields "id" (2 ^ 29) none
  let mask ← fieldNumber fields "mask" (2 ^ 29) none
  let ext ← fieldNumber fields "ext" 2 (some 0)
  if keysAmong fields ["id", "mask", "ext"] then
    some ⟨BitVec.ofNat 32 (id + 2 ^ 29 * ext), BitVec.ofNat 32 mask⟩
  else none

/-- One frame literal and nothing after it. -/
def oneFrame (ts : List Token) : Option Frame :=
  match ts with
  | .openBrace :: rest =>
    match literalFields rest.length rest with
    | some (fields, []) => frameOf fields
    | _ => none
  | _ => none

/-- A list of filter entries, in slot order. `fuel` bounds their number. -/
def filterList : Nat → List Token → Option (List FilterEntry)
  | 0, _ => none
  | fuel + 1, .openBrace :: rest =>
    match literalFields rest.length rest with
    | some (fields, []) => (filterOf fields).map fun e => [e]
    | some (fields, .comma :: more) => do
      let e ← filterOf fields
      let es ← filterList fuel more
      some (e :: es)
    | _ => none
  | _ + 1, _ => none

/-- One word operand, read by `f`, and nothing after it. -/
def oneWord {α : Type} (f : String → Option α) (ts : List Token) : Option α :=
  match ts with
  | [.word w] => f w
  | _ => none

/-- No operand. -/
def noOperand (i : Instr) (ts : List Token) : Option Instr := if ts.isEmpty then some i else none

/-- A gauge operand. -/
def gaugeOf (text : String) : Option (BitVec 4) := (indexAfter 'g' 16 text).map (BitVec.ofNat 4)

/-- The operands of a command, after its mnemonic. -/
def operandsOf (op : Opcode) (ts : List Token) : Option Instr :=
  match op with
  | .fifoPop => noOperand .fifoPop ts
  | .fifoEmpty => noOperand .fifoEmpty ts
  | .fifoFull => noOperand .fifoFull ts
  | .fifoFlush => noOperand .fifoFlush ts
  | .fifoCount => noOperand .fifoCount ts
  | .canConfig => if ts.isEmpty then some (.canConfig []) else (filterList ts.length ts).map .canConfig
  | .canDispatch => (oneFrame ts).map .canDispatch
  | .canTransmit => (oneFrame ts).map .canTransmit
  | .errDrain => noOperand .errDrain ts
  | .telemRead => (oneWord (indexAfter 's' 65536) ts).map fun n => .telemRead (BitVec.ofNat 16 n)
  | .gaugeZero => (oneWord gaugeOf ts).map .gaugeZero
  | .gaugeSettgt =>
    match ts with
    | [.word g, .comma, .word p] => do
      let g ← gaugeOf g
      let p ← percentText p
      some (.gaugeSettgt g p)
    | _ => none
  | .gaugeStep => (oneWord gaugeOf ts).map .gaugeStep
  | .gaugeTrack => (oneWord gaugeOf ts).map .gaugeTrack
  | .gaugeRead => (oneWord gaugeOf ts).map .gaugeRead
  | .clkInit => (oneWord (fun w => if w = "ok" then some true else if w = "fail" then some false else none) ts).map .clkInit
  | .clkRead => noOperand .clkRead ts
  | .irqEnable => noOperand .irqEnable ts
  | .irqDisable => noOperand .irqDisable ts
  | .fifoPush => (oneFrame ts).map .fifoPush
  | .canRx => (oneFrame ts).map .canRx
  | .canTxdone => (oneWord (numberBelow 32) ts).map fun n => .canTxdone (BitVec.ofNat 5 n)
  | .canBuserr => (oneWord (numberBelow (2 ^ 32)) ts).map fun n => .canBuserr (BitVec.ofNat 32 n)
  | .clkTick => noOperand .clkTick ts

/-- A mnemonic with its operands. A command without an encoding, that is CAN.CONFIG of 65536 or more entries, is no line:
K must fit IMM16 (R113). -/
def commandOf (ts : List Token) : Option Instr :=
  match ts with
  | .word w :: rest =>
    match (rows.map Row.op).find? fun op => op.mnemonic == w with
    | some op => (operandsOf op rest).filter Instr.wellFormed
    | none => none
  | _ => none

/-- A command line: the port, which is the command's own context where the line names none, and the command. DESIGN CHOICE
(assumption log entry 12): R127 does not say what becomes of any other line; it is read as no command. -/
def readLine (line : String) : Option (Port × Instr) :=
  match tokens line.toList [] with
  | .word p :: .colon :: rest =>
    (commandOf rest).bind fun i =>
      if p = "main" then some (.main, i) else if p = "irq" then some (.irq, i) else none
  | ts => (commandOf ts).map fun i => (i.opcode.context, i)

/-- The encoding of a command line: its command word, then its side-band words in order (R129). -/
def encodeLine (line : String) : Option (List Word) := (readLine line).map fun x => encode x.2

end Sys2Proof
end

