-- ==== Sys2Proof/Tests/Slice0.lean ====
section
/-! SUPPORT. Tests. Expected values come from 95_test_vectors.md (the vector is named beside each) or are worked out by hand from
the rule named; each runs one command on a small state. The last part shows, for every statement with hypotheses, a
concrete case that meets all of them. -/

set_option maxRecDepth 20000

namespace Sys2Proof.Tests

open Sys2Proof.Machine

/-! ## Helpers -/

/-- A field of the next state of an outcome; none where it stops. -/
def after {α : Type} (o : Host.Outcome State Fault Refusal) (f : State → α) : Option α :=
  match o with
  | .next t => some (f t)
  | .fault _ => none
  | .refused _ => none

/-- The next state of an outcome; none where it stops. -/
def nextOf (o : Host.Outcome State Fault Refusal) : Option State := after o id

theorem eq_next {o : Host.Outcome State Fault Refusal} {t : State} (h : nextOf o = some t) : o = .next t := by
  cases o <;> simp_all [nextOf, after]

/-- One step in which the environment offers a command. -/
def offered (s : State) (p : Port) (cmd : Word) (side : List Word) : Host.Outcome State Fault Refusal :=
  step { s with env := [.offer p cmd side] }

/-- The fault record with MODE: what 95_test_vectors.md writes FAULT(code, FAULT_OP, FAULT_PORT). -/
def record (t : State) : Mode × FaultCode × BitVec 6 × Port := (t.mode, t.faultCode, t.faultOp, t.faultPort)

/-- CFG-V in RUN at CLOCK = 5, IRQ_EN = 0, the MAIN port served. -/
def runS : State := { State.reset with mode := .run, clock := 5 }

/-- CFG-V in RUN, IRQ_EN = 1, the IRQ port served. -/
def irqS : State := { State.reset with mode := .run, irqEn := true, port := .irq }

/-- The frame `A` + i of 95_test_vectors.md section 0. -/
def frameN (i : Nat) : Frame := ⟨BitVec.ofNat 32 (0x100 + i), 1, BitVec.ofNat 32 (0x0A + i), 0⟩

/-- A frame of DLC 9, which is not well-formed. -/
def badFrame : Frame := ⟨0x704, 9, 0, 0⟩

/-- The frame of vector DSP-1. -/
def frame703 : Frame := ⟨0x703, 2, 0x14A, 0⟩

/-- The FIFO of CFG-V holding A, B, C, D (vector FIFO-2). -/
def fullS : State := { irqS with slot := (List.range 4).map frameN, tail := 0, twrap := true }

/-- The filter of vector CAN-1. -/
def filter700 : FilterRec := ⟨true, false, 0x700, 0x7FC⟩

/-- After CAN-1 and IRQ.ENABLE. -/
def rxS : State := { irqS with filt := [filter700, FilterRec.zero], cfgDone := true }

/-- One gauge of CFG-V with the given record, the other at reset; MAIN port, RUN, the given CLOCK. -/
def gaugeS (g : Nat) (r : GaugeRec) (clock : Word) : State :=
  { runS with clock := clock, gauge := [GaugeRec.zero, GaugeRec.zero].set g r }

/-- SIG[0] holding a value. -/
def withSignal (s : State) (v : Half) : State := { s with sig := s.sig.set 0 ⟨true, v, false, 0x703, 0⟩ }

/-! ## Well-formed commands -/

/-- The one check of well-formedness: K must fit IMM16 (30_encoding.md R113). -/
theorem test_config_of_65536_entries_refused :
    (Instr.canConfig (List.replicate 65536 ⟨0, 0⟩)).wellFormed = false := by
  rw [Instr.wellFormed, List.length_replicate]; rfl

theorem test_config_of_65535_entries_wellFormed :
    (Instr.canConfig (List.replicate 65535 ⟨0, 0⟩)).wellFormed = true := by
  rw [Instr.wellFormed, List.length_replicate]; rfl

/-! ## Decoding: words written out from 30_encoding.md R110, R113, R115 and R120 -/

/-- FIFO commands of the MAIN context: OP 0x01 to 0x05. -/
theorem test_decode_fifo :
    decode 0b00000000000000000000000000000001 [] = .ok .fifoPop ∧
    decode 0b00000000000000000000000000000010 [] = .ok .fifoEmpty ∧
    decode 0b00000000000000000000000000000011 [] = .ok .fifoFull ∧
    decode 0b00000000000000000000000000000100 [] = .ok .fifoFlush ∧
    decode 0b00000000000000000000000000000101 [] = .ok .fifoCount := ⟨rfl, rfl, rfl, rfl, rfl⟩

/-- CAN, error and telemetry commands: vectors CAN-1, ENC-10, TX-1, ERR-1, TEL-3. -/
theorem test_decode_can :
    decode 0x00010008 [0x00000700, 0x000007FC] = .ok (.canConfig [⟨0x700, 0x7FC⟩]) ∧
    decode 0x00000008 [] = .ok (.canConfig []) ∧
    decode 0x00000009 [0x00000703, 0x00000002, 0x0000014A, 0x00000000] = .ok (.canDispatch frame703) ∧
    decode 0x0000000A [0x00000123, 0x00000001, 0x00000055, 0x00000000] = .ok (.canTransmit ⟨0x123, 1, 0x55, 0⟩) ∧
    decode 0x0000000B [] = .ok .errDrain ∧ decode 0x0004000C [] = .ok (.telemRead 4) := by
  decide

/-- Gauge commands: vectors ENC-15, ENC-5, GZ-6, TR-5 and RD-1, and g15 with all bits of G set. -/
theorem test_decode_gauge :
    decode 0x00000110 [] = .ok (.gaugeZero 1) ∧
    decode 0xFFFB0111 [] = .ok (.gaugeSettgt 1 0xFFFB) ∧
    decode 0x00000112 [] = .ok (.gaugeStep 1) ∧
    decode 0x00000113 [] = .ok (.gaugeTrack 1) ∧
    decode 0x00000F14 [] = .ok (.gaugeRead 15) := by
  decide

/-- Clock and interrupt control: vectors ENC-14, CLK-1, CLK-7, CLK-8. -/
theorem test_decode_system :
    decode 0x00010018 [] = .ok (.clkInit true) ∧ decode 0x00000018 [] = .ok (.clkInit false) ∧
    decode 0x00000019 [] = .ok .clkRead ∧ decode 0x0000001A [] = .ok .irqEnable ∧
    decode 0x0000001B [] = .ok .irqDisable := by
  decide

/-- Commands of the IRQ context: program P2 line 3, CAN-3, ENC-8, ENC-17, P4 line 3, CLK-2. -/
theorem test_decode_irq :
    decode 0x00000020 [0x00000100, 0x00000001, 0x0000000A, 0x00000000] = .ok (.fifoPush (frameN 0)) ∧
    decode 0x00000021 [0x00000703, 0x00000002, 0x0000014A, 0x00000000] = .ok (.canRx frame703) ∧
    decode 0x001F0022 [] = .ok (.canTxdone 31) ∧ decode 0x00030022 [] = .ok (.canTxdone 3) ∧
    decode 0x00000023 [0x00000007] = .ok (.canBuserr 7) ∧ decode 0x00000024 [] = .ok .clkTick := by
  decide

/-- Reserved encodings: vectors ENC-1, ENC-2, ENC-3, ENC-4, ENC-7, ENC-8b, ENC-9, FLT-5, and RSV1 set. -/
theorem test_reserved_words :
    [0x00000000, 0x00000101, 0x00000041, 0x0000003F, 0x00020018, 0x00200022, 0x00000025, 0x00030018, 0x00001010].map
      (fun w => decodeOpcode w) = List.replicate 9 none := by
  decide

/-- A side band of another length than R119 fixes is no command: three words for a FRAME, one for K = 1, one for FIFO.POP. -/
theorem test_side_band_lengths :
    decode 0x00000020 [0, 0, 0] = .error .sideBandLength ∧ decode 0x00010008 [0] = .error .sideBandLength ∧
    decode 0x00000001 [0] = .error .sideBandLength ∧ decode 0x00000023 [] = .error .sideBandLength := by
  decide

/-- The encoder writes the vectors' words: ENC-5, ENC-6, ENC-10, ENC-13, ENC-14, ENC-15, ENC-17. -/
theorem test_encode :
    encode (.gaugeSettgt 1 0xFFFB) = [0xFFFB0111] ∧ encode (.gaugeSettgt 0 150) = [0x00960011] ∧
    encode (.canDispatch frame703) = [0x00000009, 0x00000703, 0x00000002, 0x0000014A, 0x00000000] ∧
    encode (.canConfig [⟨0x700, 0x7FC⟩]) = [0x00010008, 0x00000700, 0x000007FC] ∧
    encode (.clkInit true) = [0x00010018] ∧ encode (.gaugeZero 1) = [0x00000110] ∧
    encode (.canTxdone 3) = [0x00030022] := by
  decide

/-- The fields of the FRAME of vector ENC-11. -/
theorem test_frame_fields :
    (fun f : Frame => (f.id, f.ext, f.dlc, f.slot, f.payload)) ⟨0x38FF50E5, 0x00000018, 0x04030201, 0x08070605⟩
      = (0x18FF50E5, true, 8, 1, [1, 2, 3, 4, 5, 6, 7, 8]) := by
  decide

/-- The table's numbering: the first word is bits 31 to 0, the side band counts on from bit 32. -/
theorem test_decodeTableWord :
    decodeTableWord 32 0xFFFB0111 = some (.gaugeSettgt 1 0xFFFB) ∧
    decodeTableWord 64 (0x0000000700000023) = some (.canBuserr 7) ∧
    decodeTableWord 32 0x00010008 = some (.canConfig [⟨0, 0⟩]) ∧ decodeTableWord 32 0 = none := by
  decide

/-- withFetchWord makes the next step run that command: CLK.INIT ok right after reset (43_system.md R291). -/
theorem test_withFetchWord :
    nextOf (step (State.reset.withFetchWord 32 0x00010018)) = some { State.reset with mode := .run, resMain := [{}] } := by
  decide

/-! ## The FIFO commands -/

/-- FIFO-1. -/
theorem test_push_first : after (exec (.fifoPush (frameN 0)) irqS)
    (fun t => (t.tail, t.twrap, t.count, t.slotAt 0, t.resIrq)) = some (1, false, 1, frameN 0, [{ b := true }]) := by
  decide

/-- FIFO-2, its last push: TAIL wraps. -/
theorem test_push_wraps : after (exec (.fifoPush (frameN 3)) { irqS with tail := 3 })
    (fun t => (t.tail, t.twrap, t.count)) = some (0, true, 4) := by
  decide

/-- FIFO-5. -/
theorem test_pop_oldest : after (exec .fifoPop { fullS with port := .main })
    (fun t => (t.head, t.hwrap, t.count, t.resMain)) = some (1, false, 3, [{ v := true, f := frameN 0 }]) := by
  decide

/-- FIFO-8. -/
theorem test_pop_empty : after (exec .fifoPop runS) (fun t => (t.head, t.count, t.resMain)) = some (0, 0, [{}]) := by
  decide

/-- FIFO-3: FIFO.EMPTY. -/
theorem test_empty : after (exec .fifoEmpty { fullS with port := .main }) (fun t => t.resMain) = some [{}] := by
  decide

/-- FIFO-3: FIFO.FULL. -/
theorem test_full : after (exec .fifoFull { fullS with port := .main }) (fun t => t.resMain) = some [{ b := true }] := by
  decide

/-- FIFO-6: FIFO.COUNT at HEAD = 1, TAIL = 1, TWRAP = 1. -/
theorem test_count : after (exec .fifoCount { fullS with port := .main, head := 1, tail := 1 }) (fun t => t.resMain)
    = some [{ d := 4 }] := by
  decide

/-- FIFO-9. -/
theorem test_flush_unmasked : after (exec .fifoFlush { fullS with port := .main }) record
    = some (.faulted, .irqNotMasked, 0x04, .main) := by
  decide

/-- FIFO-10. -/
theorem test_flush_masked : after (exec .fifoFlush { fullS with port := .main, irqEn := false, head := 1 })
    (fun t => (t.count, t.head, t.twrap, t.slot)) = some (0, 0, false, List.replicate 4 ⟨0, 0, 0, 0⟩) := by
  decide

/-! ## The CAN commands -/

/-- CAN-1. -/
theorem test_config : after (exec (.canConfig [⟨0x700, 0x7FC⟩]) runS) (fun t => (t.filt, t.cfgDone, t.out))
    = some ([filter700, ⟨false, false, 0, 0⟩], true, [.cfgOut 1 [⟨0x700, 0x7FC⟩]]) := by
  decide

/-- CAN-7: the list check comes before the state checks. -/
theorem test_config_check_order : after (exec (.canConfig (List.replicate 3 ⟨0, 0⟩)) { rxS with port := .main }) record
    = some (.faulted, .badFilterList, 0x08, .main) := by
  decide

/-- CAN-3. -/
theorem test_rx_queued : after (exec (.canRx frame703) rxS) (fun t => (t.count, t.slotAt 0, t.resIrq))
    = some (1, frame703, [{ b := true }]) := by
  decide

/-- CAN-4, FLT-3. -/
theorem test_rx_faults :
    after (exec (.canRx ⟨0x704, 0, 0, 0⟩) rxS) record = some (.faulted, .filterMismatch, 0x21, .irq) ∧
    after (exec (.canRx badFrame) rxS) record = some (.faulted, .badFrame, 0x21, .irq) := by
  decide

/-- CAN-2. -/
theorem test_filter_match : [0x700, 0x701, 0x702, 0x703, 0x704, 0x6FF, 0x20000700].map
    (fun w => filterMatch filter700 ⟨w, 0, 0, 0⟩) = [true, true, true, true, false, false, false] := by
  decide

/-- DSP-1. -/
theorem test_dispatch_word : after (exec (.canDispatch frame703) { runS with clock := 1000 })
    (fun t => (t.sig, t.resMain))
      = some ([⟨true, 330, false, 0x703, 1000⟩, SigRec.zero, SigRec.zero, SigRec.zero], [{ b := true }]) := by
  decide

/-- DSP-4: a selector, a byte field and two bit fields. -/
theorem test_dispatch_bits : after (exec (.canDispatch ⟨0x701, 3, 0x817F01, 0⟩) { runS with clock := 1010 }) State.sig
    = some [SigRec.zero, ⟨true, 127, false, 0x701, 1010⟩, ⟨true, 1, false, 0x701, 1010⟩,
        ⟨true, 1, false, 0x701, 1010⟩] := by
  decide

/-- TX-1. -/
theorem test_transmit : after (exec (.canTransmit ⟨0x123, 1, 0x55, 0⟩) runS) (fun t => (t.out, t.resMain))
    = some ([.txReq 0x123 false 1 [0x55]], [{}]) := by
  decide

/-- TX-3: in BOOT, with a SLOT that is ignored. -/
theorem test_transmit_in_boot : after (exec (.canTransmit ⟨0x10, 0x1F0, 0, 0⟩) State.reset) State.out
    = some [.txReq 0x10 false 0 []] := by
  decide

/-- TX-4: accepted, no change but the empty result. -/
theorem test_txdone : nextOf (exec (.canTxdone 3) irqS) = some { irqS with resIrq := [{}] } := by
  decide

/-- ERR-1, the bus error. -/
theorem test_buserr : after (exec (.canBuserr 5) irqS) (fun t => (t.errFlag, t.errCode)) = some (true, 5) := by
  decide

/-- ERR-1, the drain. -/
theorem test_drain : after (exec .errDrain { runS with errFlag := true, errCode := 5 })
    (fun t => (t.errFlag, t.errCode, t.out, t.resMain)) = some (false, 5, [.diagErr 5], [{ b := true, d := 5 }]) := by
  decide

/-- ERR-2: the stale code with B = 0, nothing emitted. -/
theorem test_drain_again : after (exec .errDrain { runS with errCode := 5 }) (fun t => (t.out, t.resMain))
    = some ([], [{ d := 5 }]) := by
  decide

/-- TEL-2. -/
theorem test_telem_read : after (exec (.telemRead 0) (withSignal runS 330)) State.resMain
    = some [{ s := ⟨true, 330, false, 0x703, 0⟩ }] := by
  decide

/-- TEL-3. -/
theorem test_telem_read_out_of_range : after (exec (.telemRead 4) runS) record
    = some (.faulted, .badSignalIndex, 0x0C, .main) := by
  decide

/-! ## The gauge commands -/

/-- GZ-1. -/
theorem test_zero_assume : after (exec (.gaugeZero 0) runS) (fun t => t.gaugeAt 0) = some ⟨.ready, 0, 0, 5, 0, 0⟩ := by
  decide

/-- GZ-5. -/
theorem test_zero_hardstop : after (exec (.gaugeZero 1) runS) (fun t => t.gaugeAt 1) = some ⟨.zeroing, 3, 0, 5, 0, 0⟩ := by
  decide

/-- GT-2 and GT-3: p = -5 and p = 150. -/
theorem test_settgt_clamps :
    after (exec (.gaugeSettgt 0 0xFFFB) (gaugeS 0 ⟨.ready, 3, 8, 5, 0, 0⟩ 9)) (fun t => t.gaugeAt 0)
      = some ⟨.ready, 3, 0, 5, 0, 0⟩ ∧
    after (exec (.gaugeSettgt 0 150) (gaugeS 0 ⟨.ready, 3, 8, 5, 0, 0⟩ 9)) (fun t => t.gaugeAt 0)
      = some ⟨.ready, 3, 200, 5, 0, 0⟩ := by
  decide

/-- GT-5: floor rounding, FULL_SCALE = 7. -/
theorem test_target_floor : [50, 99, 100].map ({ gaugeV0 with fullScale := 7 }.targetOf) = [3, 6, 7] := by
  decide

/-- ST-2. -/
theorem test_step_up : after (exec (.gaugeStep 0) (gaugeS 0 ⟨.ready, 0, 4, 5, 0, 0⟩ 15))
    (fun t => (t.gaugeAt 0, t.resMain)) = some (⟨.ready, 1, 4, 15, 1, 0b0110⟩, [{ b := true }]) := by
  decide

/-- GZ-6, the third step: the end of the hard-stop run, coils released. -/
theorem test_step_ends_zeroing : after (exec (.gaugeStep 1) (gaugeS 1 ⟨.zeroing, 1, 0, 5, 6, 0b1000⟩ 5))
    (fun t => (t.gaugeAt 1, t.resMain)) = some (⟨.ready, 0, 0, 5, 5, 0⟩, [{ b := true }]) := by
  decide

/-- ST-9: the elapsed time across a wrap of CLOCK. -/
theorem test_eligible_across_wrap :
    [3, 4].map (fun c => GaugeRec.eligible gaugeV0 c ⟨.ready, 0, 4, 0xFFFFFFFA, 0, 0⟩) = [false, true] := by
  decide

/-- TR-2. -/
theorem test_track : after (exec (.gaugeTrack 0) (withSignal (gaugeS 0 ⟨.ready, 0, 0, 5, 0, 0⟩ 5) 330))
    (fun t => (t.gaugeAt 0, t.resMain)) = some (⟨.ready, 0, 66, 5, 0, 0⟩, [{ b := true }]) := by
  decide

/-- TR-5. -/
theorem test_track_unbound : after (exec (.gaugeTrack 1) (gaugeS 1 ⟨.ready, 2, 1, 5, 0, 0⟩ 5))
    (fun t => (t.gaugeAt 1, t.resMain)) = some (⟨.ready, 2, 1, 5, 0, 0⟩, [{}]) := by
  decide

/-- RD-2. -/
theorem test_read : after (exec (.gaugeRead 0) (gaugeS 0 ⟨.ready, 4, 4, 45, 0, 0b0011⟩ 50)) State.resMain
    = some [{ q := ⟨.ready, 4, 4, 45, 0, 0b0011⟩ }] := by
  decide

/-- GZ-4: the index check comes before the mode check. -/
theorem test_index_before_mode : after (exec (.gaugeZero 2) State.reset) record
    = some (.faulted, .badGaugeIndex, 0x10, .main) := by
  decide

/-! ## Clock, interrupt control, acceptance -/

/-- CLK-6 and CLK-5. -/
theorem test_clk_init :
    after (exec (.clkInit false) State.reset) (fun t => (t.mode, t.faultCode)) = some (.halted, .none) ∧
    after (exec (.clkInit true) runS) record = some (.faulted, .clockAlreadyInit, 0x18, .main) := by
  decide

/-- CLK-3, the read. -/
theorem test_clk_read : after (exec .clkRead { runS with clock := 3 }) State.resMain = some [{ d := 3 }] := by
  decide

/-- CLK-4 and CLK-2. -/
theorem test_tick :
    after (exec .clkTick { irqS with clock := 0xFFFFFFFF }) State.clock = some 0 ∧
    nextOf (exec .clkTick { State.reset with port := .irq }) = some { State.reset with port := .irq } := by
  decide

/-- CLK-8 and CLK-7. -/
theorem test_irq_enable :
    after (exec .irqEnable runS) State.irqEn = some true ∧
    after (exec .irqEnable State.reset) record = some (.faulted, .clockNotRunning, 0x1A, .main) := by
  decide

/-- CLK-8. -/
theorem test_irq_disable : after (exec .irqDisable { runS with irqEn := true }) State.irqEn = some false := by
  decide

/-- ENC-18, FLT-1, FLT-6, FIFO-15: decode before gating, context before index, gating before records. -/
theorem test_check_order :
    after (offered State.reset .irq 0x00000121 []) record = some (.faulted, .illegalOp, 0x21, .irq) ∧
    after (offered State.reset .irq 0x00000F11 []) record = some (.faulted, .wrongContext, 0x11, .irq) ∧
    after (offered State.reset .irq 0x00000021 [0x704, 9, 0, 0]) record = some (.boot, .none, 0, .main) ∧
    after (offered irqS .irq 0x00000001 []) record = some (.faulted, .wrongContext, 0x01, .irq) := by
  decide

/-- FLT-4: nothing is accepted after a fault, and the record stays. -/
theorem test_faulted_is_quiet :
    nextOf (offered (irqS.takeFault .badFrame 0x20) .main 0x00000000 [])
      = some { irqS.takeFault .badFrame 0x20 with port := .main } := by
  decide

/-- RST-1. -/
theorem test_reset :
    nextOf (step { fullS with env := [.reset], errFlag := true, out := [.diagErr 3] }) = some State.reset := by
  decide

/-! ## Pseudo-commands and the assembler -/

/-- R128: POLL dispatches what it popped; DRAIN_ALL ends at V = 0. -/
theorem test_poll :
    nextCommand Config.cfgV { v := true, f := frame703 } [.dispatchPopped] = some (.canDispatch frame703, []) ∧
    nextCommand Config.cfgV {} (.drainPopped :: trackAllTasks Config.cfgV)
      = some (.gaugeTrack 0, [.issue (.gaugeTrack 1)]) := by
  decide

/-- R363: the boot sequence of CFG-V; gauge 1 has a hard-stop run. -/
theorem test_boot : Pseudo.expand Config.cfgV (.boot true [⟨0x700, 0x7FC⟩]) =
    [.issue (.clkInit true), .issue .fifoFlush, .issue (.canConfig [⟨0x700, 0x7FC⟩]), .issue (.gaugeZero 0),
      .issue (.gaugeZero 1), .issue (.gaugeStep 1), .issue (.gaugeRead 1), .awaitReady 1, .issue .irqEnable,
      .loopForever] := by
  decide

/-- R127 and R129: the line and the encoding of vector ENC-5. -/
theorem test_assembler_line :
    Instr.line (.gaugeSettgt 1 0xFFFB) = "GAUGE.SETTGT g1, -5" ∧
    Instr.encodingTexts (.gaugeSettgt 1 0xFFFB) = ["0xFFFB0111"] := by
  decide

/-- R127: a port, a sign, a frame literal with omitted fields (ENC-5, CAN-3, TX-4, ERR-1, CAN-1). -/
theorem test_read_line :
    readLine "GAUGE.SETTGT g1, -5" = some (.main, .gaugeSettgt 1 0xFFFB) ∧
    readLine ("irq: CAN.RX " ++ braced "id=0x703, dlc=2, slot=0, data=[0x4A, 0x01]") = some (.irq, .canRx frame703) ∧
    readLine "CAN.TXDONE 3" = some (.irq, .canTxdone 3) ∧ readLine "main:CAN.BUSERR 5" = some (.main, .canBuserr 5) ∧
    encodeLine ("CAN.CONFIG " ++ braced "id=0x700, mask=0x7FC, ext=0") = some [0x00010008, 0x700, 0x7FC] := by
  decide

/-- A line that is no command: a mnemonic the map does not list, an operand too many, a percent out of range, a gauge without
its letter, a comma with no byte after it. -/
theorem test_read_line_rejects :
    (["FIFO.DROP", "FIFO.POP 1", "GAUGE.SETTGT g0, 32768", "GAUGE.STEP 0",
      "CAN.TRANSMIT " ++ braced "id=0x123, dlc=1, data=[0x55, ]"].map fun l => (readLine l).isNone)
      = [true, true, true, true, true] := by
  decide

/-- R127 both ways: the full spelling of a frame command reads back as the command. -/
theorem test_line_reads_back :
    readLine (Instr.line (.canDispatch ⟨0x38FF50E5, 0x00000018, 0x04030201, 0x08070605⟩))
      = some (.main, .canDispatch ⟨0x38FF50E5, 0x00000018, 0x04030201, 0x08070605⟩) := by
  decide

/-! ## Witnesses: for each statement with hypotheses, a concrete case that meets all of them -/

/-- An outcome that answers a next state with a property. -/
theorem answers_with {o : Host.Outcome State Fault Refusal} {p : State → Bool} (h : after o p = some true) :
    ∃ t, o = .next t ∧ p t = true := by
  cases o <;> simp_all [after]

/-- A run that ends in a state with a property. -/
theorem runs_to {o : Option State} {p : State → Bool} (h : o.map p = some true) : ∃ t, o = some t ∧ p t = true := by
  cases o <;> simp_all

/-- The target is held, from the targets along the run. -/
theorem holds_of {s : State} {g k : Nat} (hr : s.noResetFor k = true)
    (h : ∀ j ≤ k, (stepN j s).map (fun t => (t.gaugeAt g).tgt) = some (s.gaugeAt g).tgt) : s.holdsTarget g k := by
  refine ⟨hr, fun j hj t ht => ?_⟩
  have := h j hj
  rw [ht] at this
  simpa using this

theorem reset_inv : State.reset.Inv := ⟨by decide, by decide, by decide, by decide, by decide, by decide⟩
theorem runS_inv : runS.Inv := ⟨by decide, by decide, by decide, by decide, by decide, by decide⟩
theorem irqS_inv : irqS.Inv := ⟨by decide, by decide, by decide, by decide, by decide, by decide⟩
theorem fullS_inv : fullS.Inv := ⟨by decide, by decide, by decide, by decide, by decide, by decide⟩

/-! ### Encoding -/

theorem test_witness_DecodeOfEncode :
    (Instr.gaugeSettgt 15 0x8000).wellFormed = true ∧ (Instr.canConfig [⟨0x700, 0x7FC⟩]).wellFormed = true := by
  decide

theorem test_witness_EncodeOfDecode : decode 0x00010008 [0x700, 0x7FC] = .ok (.canConfig [⟨0x700, 0x7FC⟩]) := by
  decide

/-- A word with a row, and a word with none. -/
theorem test_witness_OneRowPerWord :
    (∃ r ∈ rows, (0xFFFF0F11 : Word) &&& r.mask = r.pattern) ∧
    ∀ r ∈ rows, (0x00000041 : Word) &&& r.mask ≠ r.pattern := by
  decide

/-- One word of each length: a FRAME, K = 0, K = 1 and K = 65535, a CODE, none. -/
theorem test_witness_SideBandLengths :
    decodeOpcode 0x00000020 = some .fifoPush ∧ decodeOpcode 0x00000008 = some .canConfig ∧
    decodeOpcode 0x00010008 = some .canConfig ∧ decodeOpcode 0xFFFF0008 = some .canConfig ∧
    decodeOpcode 0x00000023 = some .canBuserr ∧ decodeOpcode 0x00000024 = some .clkTick := by
  decide

/-! ### Steps, acceptance, reset -/

theorem test_witness_StepRunsDecodedCommand :
    Config.cfgV.admitted = true ∧ State.reset.mode.accepting = true ∧
    (State.reset.withFetchWord 32 0x00010018).env = .offer .main 0x00010018 [] :: [] ∧
    decode 0x00010018 [] = .ok (.clkInit true) := by
  decide

theorem test_witness_ReservedWordFaults :
    irqS.cfg.admitted = true ∧ irqS.mode.accepting = true ∧ decodeOpcode 0 = none ∧ decodeOpcode 0xFFFFFFFF = none := by
  decide

/-- A HALTED block and a FAULTED block, offered two commands. -/
theorem test_witness_QuietUntilReset :
    (fun s : State => s.cfg.admitted = true ∧ s.mode = .halted ∧ s.noResetFor 2 = true ∧ (stepN 2 s).isSome = true)
      { State.reset with mode := .halted, env := [.offer .main 0x00000004 [], .offer .irq 0x00000024 [], .reset] } ∧
    (fun s : State => s.cfg.admitted = true ∧ s.mode = .faulted ∧ s.noResetFor 1 = true ∧ (stepN 1 s).isSome = true)
      { irqS.takeFault .badFrame 0x20 with env := [.offer .main 0x00000019 []] } := by
  decide

theorem test_witness_ResetValues :
    (fun s : State => s.cfg.admitted = true ∧ s.env = .reset :: []) { fullS with env := [.reset] } := by
  decide

/-- N = 0 and N = 65536, one below and one above the bounds of R7. -/
theorem test_witness_BadConfigurationRefused :
    { Config.cfgV with fifoDepth := 0 }.admitted = false ∧ { Config.cfgV with fifoDepth := 65536 }.admitted = false := by
  decide

/-- The bounds of R7 themselves, and tables that break R206 (a), (b) and (c). -/
theorem test_witness_AdmittedConfigurations :
    { Config.cfgV with fifoDepth := 65535, numFilters := 32, numSignals := 65536 }.admitted = true ∧
    [[⟨0x800, false, none, [⟨.byte 0, 0⟩]⟩], [⟨0x700, false, none, [⟨.byte 0, 1⟩, ⟨.byte 1, 1⟩]⟩],
      [⟨0x700, false, none, [⟨.byte 0, 1⟩]⟩, ⟨0x700, false, some ⟨0, 1⟩, [⟨.byte 0, 1⟩]⟩]].map
        (fun t => { Config.cfgV with decodeTable := t }.admitted) = [false, false, false] := by
  decide

theorem test_witness_InvariantAtReset : Config.cfgV.admitted = true := by decide

/-- A step that queues a frame, from a state with the invariant. -/
theorem test_witness_EveryStepKeepsInvariant :
    (fun s : State => s.Inv ∧ ∃ t, step s = .next t ∧ decide (t.count = 1) = true)
      { irqS with env := [.offer .irq 0x00000020 [0x100, 1, 0x0A, 0]] } :=
  ⟨irqS_inv, answers_with (by decide)⟩

/-! ### Faults and results -/

theorem test_witness_WrongContextFaults :
    runS.mode.accepting = true ∧ runS.port = .main ∧ Instr.clkTick.opcode.code.getLsbD 5 = true ∧
    irqS.mode.accepting = true ∧ irqS.port = .irq ∧ Instr.fifoPop.opcode.code.getLsbD 5 = false := by
  decide

theorem test_witness_GatedCommandsNotAccepted :
    { irqS with irqEn := false }.port = .irq ∧ { irqS with irqEn := false }.irqEn = false ∧
    { State.reset with port := .irq }.port = .irq ∧ { State.reset with port := .irq }.mode ≠ .run ∧
    runS.mode.accepting = true ∧ runS.port = .main ∧ Instr.clkRead.opcode.context = .main := by
  decide

theorem test_witness_FaultChangesOnlyTheRecord :
    (∃ t, exec (.canRx badFrame) rxS = .next t ∧ decide (t.mode = .faulted) = true) ∧ rxS.mode ≠ .faulted :=
  ⟨answers_with (by decide), by decide⟩

/-- A result on each port, a fault, and a command that is not accepted. -/
theorem test_witness_OneResultPerCommand :
    (∃ t, exec .fifoPop runS = .next t ∧ decide (runS.admits .fifoPop = true ∧ t.mode ≠ .faulted) = true) ∧
    (∃ t, exec .clkTick irqS = .next t ∧ decide (irqS.admits .clkTick = true ∧ t.mode ≠ .faulted) = true) ∧
    (∃ t, exec (.telemRead 4) runS = .next t ∧ decide (t.mode = .faulted) = true) ∧
    ∃ t, exec .clkTick { State.reset with port := .irq } = .next t ∧
      decide ({ State.reset with port := .irq }.admits .clkTick = false) = true :=
  ⟨answers_with (by decide), answers_with (by decide), answers_with (by decide), answers_with (by decide)⟩

/-! ### Completion -/

/-- The conditions on the block of every MAIN-port command, in BOOT and in RUN. -/
theorem test_witness_main_port :
    State.reset.mode.accepting = true ∧ State.reset.port = .main ∧ runS.mode.accepting = true ∧ runS.port = .main := by
  decide

/-- The conditions on the block of every CAN-side command on the IRQ port. -/
theorem test_witness_irq_port :
    irqS.mode.accepting = true ∧ irqS.port = .irq ∧ irqS.irqEn = true ∧ fullS.mode.accepting = true ∧
    fullS.port = .irq ∧ fullS.irqEn = true ∧ rxS.mode.accepting = true ∧ rxS.port = .irq ∧ rxS.irqEn = true := by
  decide

/-- A bad frame; a full FIFO; a FIFO with room, TAIL below and at N - 1. -/
theorem test_witness_FifoPushCompletes :
    badFrame.wellFormed = false ∧ (frameN 4).wellFormed = true ∧ fullS.count = fullS.cfg.fifoDepth ∧
    irqS.count ≠ irqS.cfg.fifoDepth ∧ irqS.tail.toNat + 1 ≠ irqS.cfg.fifoDepth ∧
    (fun s : State => s.count ≠ s.cfg.fifoDepth ∧ s.tail.toNat + 1 = s.cfg.fifoDepth) { irqS with tail := 3 } := by
  decide

/-- An empty FIFO; a FIFO with frames, HEAD below and at N - 1. -/
theorem test_witness_FifoPopCompletes :
    runS.count = 0 ∧ fullS.count ≠ 0 ∧ fullS.head.toNat + 1 ≠ fullS.cfg.fifoDepth ∧
    (fun s : State => s.count ≠ 0 ∧ s.head.toNat + 1 = s.cfg.fifoDepth) { fullS with head := 3, tail := 1 } := by
  decide

theorem test_witness_FifoStatusReadsComplete :
    (fun s : State => s.mode.accepting = true ∧ s.port = .main) { fullS with port := .main } := by
  decide

theorem test_witness_FifoFlushCompletes :
    (fun s : State => s.mode.accepting = true ∧ s.port = .main ∧ s.irqEn = true) { fullS with port := .main } ∧
    runS.irqEn = false := by
  decide

/-- A list longer than M and an entry that is not well-formed; a list of M entries with IRQ_EN = 1, with CFG_DONE = 1, and
with neither; slots below K, at K and at M - 1. -/
theorem test_witness_CanConfigCompletes :
    runS.cfg.numFilters < (List.replicate 3 (FilterEntry.mk 0 0)).length ∧
    (∃ e ∈ [FilterEntry.mk 0x700 0x1FFFFFFF], e.wellFormed = false) ∧
    ([⟨0x700, 0x7FC⟩, ⟨0x20000000, 0⟩] : List FilterEntry).length ≤ runS.cfg.numFilters ∧
    (∀ e ∈ [FilterEntry.mk 0x700 0x7FC, FilterEntry.mk 0x20000000 0], e.wellFormed = true) ∧
    { runS with irqEn := true }.irqEn = true ∧ { runS with cfgDone := true }.irqEn = false ∧
    { runS with cfgDone := true }.cfgDone = true ∧ runS.irqEn = false ∧ runS.cfgDone = false ∧
    [FilterEntry.mk 0x700 0x7FC][0]? = some ⟨0x700, 0x7FC⟩ ∧ [FilterEntry.mk 0x700 0x7FC].length ≤ 1 ∧
    1 < runS.cfg.numFilters := by
  decide

/-- A bad frame and SLOT = M; SLOT = M - 1 with no match; a match with room and with none, TAIL at N - 1 too. -/
theorem test_witness_CanRxCompletes :
    badFrame.wellFormed = false ∧ rxS.cfg.numFilters ≤ (Frame.mk 0x700 0x20 0 0).slot.toNat ∧
    (Frame.mk 0x700 0x10 0 0).wellFormed = true ∧ (Frame.mk 0x700 0x10 0 0).slot.toNat + 1 = rxS.cfg.numFilters ∧
    filterMatch (rxS.filtAt 1) (Frame.mk 0x700 0x10 0 0) = false ∧ frame703.wellFormed = true ∧
    frame703.slot.toNat < rxS.cfg.numFilters ∧ filterMatch (rxS.filtAt frame703.slot.toNat) frame703 = true ∧
    rxS.count ≠ rxS.cfg.fifoDepth ∧ { fullS with filt := rxS.filt }.count = fullS.cfg.fifoDepth ∧
    (fun s : State => s.count ≠ s.cfg.fifoDepth ∧ s.tail.toNat + 1 = s.cfg.fifoDepth) { rxS with tail := 3 } := by
  decide

/-- A bad frame; a good one in BOOT; no entry for 0x702; the entry of 0x701 with selector 1 on a frame of DLC 2, whose byte
field at offset 1 is in range and whose bit fields at offset 2 are not. -/
theorem test_witness_CanDispatchCompletes :
    runS.cfg.admitted = true ∧ runS.sig.length = runS.cfg.numSignals ∧ badFrame.wellFormed = false ∧
    frame703.wellFormed = true ∧ State.reset.mode ≠ .run ∧
    (∀ e ∈ runS.cfg.decodeTable, entryMatch e ⟨0x702, 2, 0, 0⟩ = false) ∧
    (∃ e ∈ runS.cfg.decodeTable, entryMatch e ⟨0x701, 2, 0x7F01, 0⟩ = true ∧
      (∃ d ∈ e.fields, inRange d.kind ⟨0x701, 2, 0x7F01, 0⟩ = true) ∧
      (∀ d ∈ e.fields, d.sig = 2 → inRange d.kind ⟨0x701, 2, 0x7F01, 0⟩ = false)) := by
  decide

theorem test_witness_CanTransportCommandsComplete :
    badFrame.wellFormed = false ∧ (Frame.mk 0x123 8 0x55 0).wellFormed = true ∧ (Frame.mk 0x123 0 0 0).wellFormed = true := by
  decide

theorem test_witness_ErrDrainCompletes : { runS with errFlag := true }.errFlag = true ∧ runS.errFlag = false := by
  decide

/-- The indices S, above it, and S - 1. -/
theorem test_witness_TelemReadCompletes :
    runS.cfg.numSignals ≤ (4 : Half).toNat ∧ runS.cfg.numSignals ≤ (0xFFFF : Half).toNat ∧
    (3 : Half).toNat < runS.cfg.numSignals := by
  decide

/-- The indices G and 15; in BOOT; zeroed already; ASSUME (gauge 0) and HARDSTOP with a run (gauge 1). -/
theorem test_witness_GaugeZeroCompletes :
    runS.cfg.gauges.length ≤ (2 : BitVec 4).toNat ∧ runS.cfg.gauges.length ≤ (15 : BitVec 4).toNat ∧
    (1 : BitVec 4).toNat < runS.cfg.gauges.length ∧ State.reset.mode ≠ .run ∧ runS.mode = .run ∧
    ((gaugeS 1 ⟨.ready, 0, 0, 0, 0, 0⟩ 5).gaugeAt 1).zstate ≠ .unzeroed ∧ (runS.gaugeAt 1).zstate = .unzeroed ∧
    (runS.cfg.gaugeCfg 0).zeroMode = .assume ∧ (runS.cfg.gaugeCfg 1).zeroMode = .hardstop ∧
    (runS.cfg.gaugeCfg 1).zeroRun ≠ 0 := by
  decide

/-- The index G; an unzeroed gauge; a READY gauge. -/
theorem test_witness_GaugeSettgtCompletes :
    runS.cfg.gauges.length ≤ (2 : BitVec 4).toNat ∧ (1 : BitVec 4).toNat < runS.cfg.gauges.length ∧
    (runS.gaugeAt 1).zstate ≠ .ready ∧ ((gaugeS 1 ⟨.ready, 0, 0, 0, 0, 0⟩ 5).gaugeAt 1).zstate = .ready := by
  decide

/-- The index G; in BOOT; an unzeroed gauge; Idle; one tick too early; exactly STEP_DELAY ticks, up and down. -/
theorem test_witness_GaugeStepCompletes :
    runS.cfg.gauges.length ≤ (2 : BitVec 4).toNat ∧ State.reset.mode ≠ .run ∧ (runS.gaugeAt 0).zstate = .unzeroed ∧
    ((gaugeS 0 ⟨.ready, 4, 4, 5, 0, 0⟩ 15).gaugeAt 0).cur = 4 ∧
    ((14 : Word) - 5).toNat < (runS.cfg.gaugeCfg 0).stepDelay ∧ (runS.cfg.gaugeCfg 0).stepDelay ≤ ((15 : Word) - 5).toNat ∧
    ((gaugeS 0 ⟨.ready, 3, 4, 5, 0, 0⟩ 15).gaugeAt 0).cur ≠ ((gaugeS 0 ⟨.ready, 3, 4, 5, 0, 0⟩ 15).gaugeAt 0).tgt ∧
    ((gaugeS 0 ⟨.ready, 5, 4, 5, 0, 0⟩ 15).gaugeAt 0).cur ≠ ((gaugeS 0 ⟨.ready, 5, 4, 5, 0, 0⟩ 15).gaugeAt 0).tgt := by
  decide

/-- The index G; an unzeroed gauge; no bound signal (gauge 1); a bound signal not written, and written (gauge 0). -/
theorem test_witness_GaugeTrackCompletes :
    runS.cfg.gauges.length ≤ (2 : BitVec 4).toNat ∧ (runS.gaugeAt 0).zstate ≠ .ready ∧
    ((gaugeS 0 ⟨.ready, 0, 0, 0, 0, 0⟩ 5).gaugeAt 0).zstate = .ready ∧ (runS.cfg.gaugeCfg 1).signal = none ∧
    (runS.cfg.gaugeCfg 0).signal = some 0 ∧ (runS.sigAt 0).valid = false ∧
    ((withSignal (gaugeS 0 ⟨.ready, 0, 0, 0, 0, 0⟩ 5) 330).sigAt 0).valid = true := by
  decide

/-- The indices G - 1 and G. -/
theorem test_witness_GaugeReadCompletes :
    (1 : BitVec 4).toNat < runS.cfg.gauges.length ∧ runS.cfg.gauges.length ≤ (2 : BitVec 4).toNat := by
  decide

theorem test_witness_ClkInitCompletes :
    State.reset.port = .main ∧ State.reset.mode = .boot ∧ runS.port = .main ∧ runS.mode = .run := by
  decide

/-- CLK.TICK at the last CLOCK value too. -/
theorem test_witness_ClockCommandsComplete :
    (fun s : State => s.mode = .run ∧ s.port = .irq ∧ s.clock = 0xFFFFFFFF) { irqS with clock := 0xFFFFFFFF } := by
  decide

theorem test_witness_IrqControlCompletes :
    State.reset.port = .main ∧ State.reset.mode = .boot ∧ runS.port = .main ∧ runS.mode = .run ∧
    runS.mode.accepting = true := by
  decide

/-! ### The FIFO across the two contexts -/

/-- A push, a pop and a drop: three steps from a FIFO that holds three frames. -/
theorem test_witness_FifoRefinesQueue :
    (fun s : State => s.Inv ∧ ∃ t, stepN 3 s = some t ∧ decide (t.queued = [frameN 1, frameN 2, frameN 3]) = true)
      { fullS with env := [.offer .irq 0x00000020 [0x104, 1, 0x0E, 0], .offer .main 0x00000001 [], .offer .main 2 []] } :=
  ⟨fullS_inv, runs_to (by decide)⟩

/-- A push and a pop from an empty FIFO. -/
theorem test_witness_FifoOrder :
    (fun s : State => s.Inv ∧ s.count = 0 ∧ FifoEvent.cleared ∉ runEvents 2 s ∧
        runEvents 2 s = [.pushed (frameN 0), .popped (frameN 0)] ∧ ∃ t, stepN 2 s = some t ∧ decide (t.count = 0) = true)
      { irqS with env := [.offer .irq 0x00000020 [0x100, 1, 0x0A, 0], .offer .main 0x00000001 []] } :=
  ⟨irqS_inv, by decide, by decide, by decide, runs_to (by decide)⟩

/-- A run from reset, and a push into a full FIFO by each of the two commands. -/
theorem test_witness_FifoCapacity :
    Config.cfgV.admitted = true ∧
    (∃ t, stepN 1 { State.resetWith Config.cfgV with env := [.offer .main 0x00010018 []] } = some t ∧
      decide (t.mode = .run) = true) ∧
    fullS.admits .fifoPush = true ∧ fullS.admits .canRx = true ∧ fullS.count = fullS.cfg.fifoDepth ∧
    (∃ t, exec (.fifoPush (frameN 4)) fullS = .next t ∧ decide (t.mode ≠ .faulted) = true) ∧
    ∃ t, exec (.canRx frame703) { fullS with filt := rxS.filt } = .next t ∧ decide (t.mode ≠ .faulted) = true :=
  ⟨by decide, runs_to (by decide), by decide, by decide, by decide, answers_with (by decide), answers_with (by decide)⟩

/-- A push on the IRQ port; a pop and a flush on the MAIN port. -/
theorem test_witness_ContextOwnership :
    (∃ t, exec (.fifoPush (frameN 0)) irqS = .next t ∧ decide (irqS.port = .irq ∧ t.count = 1) = true) ∧
    (∃ t, exec .fifoPop { fullS with port := .main } = .next t ∧ decide (t.count = 3) = true) ∧
    ∃ t, exec .fifoFlush { fullS with port := .main, irqEn := false } = .next t ∧ decide (t.count = 0) = true :=
  ⟨answers_with (by decide), answers_with (by decide), answers_with (by decide)⟩

theorem test_witness_CountStaleOneWay :
    (fullS.Inv ∧ fullS.port = .irq ∧
      ∃ t, exec (.fifoPush (frameN 4)) fullS = .next t ∧ decide (t.count = 4) = true) ∧
    (fun s : State => s.Inv ∧ s.port = .main ∧ ∃ t, exec .fifoPop s = .next t ∧ decide (t.count = 3) = true)
      { fullS with port := .main } :=
  ⟨⟨fullS_inv, by decide, answers_with (by decide)⟩, fullS_inv, by decide, answers_with (by decide)⟩

/-- CLK.TICK in the masked window. -/
theorem test_witness_MaskedWindow :
    (fun s : State => s.irqEn = false ∧ s.env = .offer .irq 0x00000024 [] :: [] ∧
        ∃ t, step s = .next t ∧ decide (t.clock = 6) = true)
      { runS with env := [.offer .irq 0x00000024 []] } :=
  ⟨by decide, by decide, answers_with (by decide)⟩

/-! ### Filters, dispatch and the error latch -/

/-- The identifiers at both ends of the accepted range. -/
theorem test_witness_FilterSemantics :
    (Frame.mk 0x700 0 0 0).wellFormed = true ∧ filterMatch ⟨true, false, 0x700, 0x7FC⟩ ⟨0x700, 0, 0, 0⟩ = true ∧
    filterMatch ⟨true, false, 0x700, 0x7FC⟩ ⟨0x703, 0, 0, 0⟩ = true := by
  decide

theorem test_witness_OneEntryPerFrame :
    Config.cfgV.admitted = true ∧ ∃ e ∈ Config.cfgV.decodeTable, entryMatch e ⟨0x701, 3, 0x817F01, 0⟩ = true := by
  decide

/-- CAN-9: the same frame dispatched twice, the second time at CLOCK = 1005, and at the same CLOCK. -/
theorem test_witness_DispatchIdempotent :
    (fun s : State => s.Inv ∧ s.mode = .run ∧ s.port = .main ∧ frame703.wellFormed = true ∧
      (∃ t, exec (.canDispatch frame703) s = .next t ∧
        (after (exec (.canDispatch frame703) { t with clock := 1005 }) (fun u => (u.sigAt 0).ts)).isSome = true) ∧
      (∃ e ∈ s.cfg.decodeTable, entryMatch e frame703 = true ∧ ∃ d ∈ e.fields, inRange d.kind frame703 = true))
      { runS with clock := 1000 } :=
  ⟨⟨by decide, by decide, by decide, by decide, by decide, by decide⟩, by decide, by decide, by decide,
    answers_with (p := fun t => (after (exec (.canDispatch frame703) { t with clock := 1005 })
      (fun u => (u.sigAt 0).ts)).isSome) (by decide), by decide⟩

/-- ERR-3. -/
theorem test_witness_ErrorsCoalesce :
    irqS.mode.accepting = true ∧ irqS.irqEn = true ∧ irqS.port = .irq ∧
    ∃ t, exec (.canBuserr 7) irqS = .next t ∧
      (match exec (.canBuserr 9) t with
      | .next u => (after (exec .errDrain { u with port := .main }) fun v => v.out == [.diagErr 9]) == some true
      | .fault _ => false
      | .refused _ => false) = true :=
  ⟨by decide, by decide, by decide, answers_with (by decide)⟩

/-! ### Gauges -/

/-- GAUGE.ZERO of an UNZEROED gauge, and the last step of a hard-stop run. -/
theorem test_witness_GaugeLifecycle :
    (∃ t, exec (.gaugeZero 1) runS = .next t ∧ decide ((t.gaugeAt 1).zstate = .zeroing) = true) ∧
    ∃ t, exec (.gaugeStep 1) (gaugeS 1 ⟨.zeroing, 1, 0, 5, 6, 0b1000⟩ 5) = .next t ∧
      decide ((t.gaugeAt 1).zstate = .ready) = true :=
  ⟨answers_with (by decide), answers_with (by decide)⟩

/-- A gauge 1 that is READY at PHASE 7, coils released, with a given position and target. -/
def readyS (cur tgt : Half) : State := gaugeS 1 ⟨.ready, cur, tgt, 5, 7, 0⟩ 5

theorem test_witness_OnlyStepMoves :
    (readyS 0 2).Inv ∧ ∃ t, exec (.gaugeStep 1) (readyS 0 2) = .next t ∧
      decide ((t.gaugeAt 1).phase ≠ ((readyS 0 2).gaugeAt 1).phase ∧ (t.gaugeAt 1).cur ≠ ((readyS 0 2).gaugeAt 1).cur ∧
        ((readyS 0 2).gaugeAt 1).zstate ≠ .unzeroed) = true :=
  ⟨⟨by decide, by decide, by decide, by decide, by decide, by decide⟩, answers_with (by decide)⟩

/-- Three GAUGE.STEP commands offered for gauge 1. -/
def threeSteps : List EnvEvent := List.replicate 3 (.offer .main 0x00000112 [])

/-- Up from 0 to 2 and down from 2 to 0: two steps of three move. -/
theorem test_witness_GaugeConverges :
    (fun s : State => s.Inv ∧ (s.gaugeAt 1).zstate = .ready ∧ s.holdsTarget 1 3 ∧ moves 1 3 s = 2 ∧
      ∃ t, stepN 3 s = some t ∧ decide ((t.gaugeAt 1).cur = 2) = true) { readyS 0 2 with env := threeSteps } ∧
    (fun s : State => s.Inv ∧ (s.gaugeAt 1).zstate = .ready ∧ s.holdsTarget 1 3 ∧ moves 1 3 s = 2 ∧
      ∃ t, stepN 3 s = some t ∧ decide ((t.gaugeAt 1).cur = 0) = true) { readyS 2 0 with env := threeSteps } :=
  ⟨⟨⟨by decide, by decide, by decide, by decide, by decide, by decide⟩, by decide,
      holds_of (by decide) (by decide), by decide, runs_to (by decide)⟩,
    ⟨by decide, by decide, by decide, by decide, by decide, by decide⟩, by decide,
      holds_of (by decide) (by decide), by decide, runs_to (by decide)⟩

/-- The progress clause at exactly STEP_DELAY: gauge 0 ten ticks after its last step, going up and going down. -/
theorem test_witness_GaugeConverges_progress :
    (∀ r ∈ [GaugeRec.mk .ready 3 4 5 0 0, GaugeRec.mk .ready 5 4 5 0 0],
      (fun s : State => s.Inv ∧ s.env = .offer .main 0x00000012 [] :: [] ∧ s.mode = .run ∧
        (0 : BitVec 4).toNat < s.cfg.gauges.length ∧ (s.gaugeAt 0).zstate ≠ .unzeroed ∧
        (s.gaugeAt 0).cur ≠ (s.gaugeAt 0).tgt ∧ (s.cfg.gaugeCfg 0).stepDelay = (s.clock - (s.gaugeAt 0).lastT).toNat ∧
        movesGauge 0 s = true) { gaugeS 0 r 15 with env := [.offer .main 0x00000012 []] }) ∧
    decode 0x00000012 [] = .ok (.gaugeStep 0) := by
  refine ⟨?_, by decide⟩
  intro r hr
  simp only [List.mem_cons, List.not_mem_nil, or_false] at hr
  rcases hr with rfl | rfl
  · exact ⟨⟨by decide, by decide, by decide, by decide, by decide, by decide⟩, by decide, by decide, by decide, by decide,
      by decide, by decide, by decide⟩
  · exact ⟨⟨by decide, by decide, by decide, by decide, by decide, by decide⟩, by decide, by decide, by decide, by decide,
      by decide, by decide, by decide⟩

/-- Two moving steps of gauge 1 with a CLK.TICK between them; and the zeroing of gauge 1 before its first step. -/
theorem test_witness_StepsAreRateLimited :
    (fun s : State => s.Inv ∧ movesGauge 1 s = true ∧ ∃ t, step s = .next t ∧
        (t.noResetFor 1 && moves 1 1 t == 0 && (match stepN 1 t with | some u => movesGauge 1 u | none => false)) = true)
      { readyS 0 2 with
        env := [.offer .main 0x00000112 [], .offer .irq 0x00000024 [], .offer .main 0x00000112 []] } ∧
    (fun s : State => s.Inv ∧ (s.gaugeAt 1).zstate = .unzeroed ∧ ∃ t, step s = .next t ∧
        (decide ((t.gaugeAt 1).zstate ≠ .unzeroed) && t.noResetFor 0 && moves 1 0 t == 0 &&
          (match stepN 0 t with | some u => movesGauge 1 u | none => false)) = true)
      { runS with env := [.offer .main 0x00000110 [], .offer .main 0x00000112 []] } :=
  ⟨⟨⟨by decide, by decide, by decide, by decide, by decide, by decide⟩, by decide, answers_with (by decide)⟩,
    runS_inv, by decide, answers_with (by decide)⟩

/-- The step from 1 to 2 settles gauge 1; two more GAUGE.STEP commands follow. -/
theorem test_witness_SettledGaugeStays :
    (fun s : State => s.Inv ∧ movesGauge 1 s = true ∧ ∃ t, step s = .next t ∧
        (t.gaugeAt 1).cur = (t.gaugeAt 1).tgt ∧ t.holdsTarget 1 2 ∧ ∃ u, stepN 2 t = some u)
      { readyS 1 2 with env := threeSteps } := by
  refine ⟨⟨by decide, by decide, by decide, by decide, by decide, by decide⟩, by decide, ?_⟩
  refine ⟨{ gaugeS 1 ⟨.ready, 2, 2, 5, 0, 0⟩ 5 with env := threeSteps.drop 1, resMain := [{ b := true }] },
    eq_next (by decide), by decide, holds_of (by decide) (by decide), ?_⟩
  exact (runs_to (p := fun _ => true) (by decide)).imp fun _ h => h.1

theorem test_witness_IrqLeavesGaugesAndSignals :
    (fun s : State => s.env = .offer .irq 0x00000024 [] :: [] ∧ ∃ t, step s = .next t ∧ decide (t.clock = 6) = true)
      { runS with env := [.offer .irq 0x00000024 []] } :=
  ⟨by decide, answers_with (by decide)⟩

/-- Two states that agree on what a dispatch sees and differ in the FIFO, the error latch and IRQ_EN. -/
theorem test_witness_GaugeCommandsSeeNoFifo :
    (fun s s' : State => s ≠ s' ∧ s.cfg = s'.cfg ∧ s.mode = s'.mode ∧ s.port = s'.port ∧ s.clock = s'.clock ∧
        s.sig = s'.sig ∧ s.gauge = s'.gauge ∧
        (∃ t, exec (.canDispatch frame703) s = .next t ∧ decide ((t.sigAt 0).value = 330) = true) ∧
        ∃ t, exec (.canDispatch frame703) s' = .next t ∧ decide ((t.sigAt 0).value = 330) = true)
      { irqS with port := .main } { fullS with port := .main, errFlag := true, irqEn := false } ∧
    usesGauge (Instr.gaugeTrack 0).opcode = true :=
  ⟨⟨by decide, by decide, by decide, by decide, by decide, by decide, by decide, answers_with (by decide),
    answers_with (by decide)⟩, by decide⟩

/-! ### Control state, parameters, output history, pseudo-commands -/

/-- A tick, CLK.INIT, IRQ.ENABLE and CAN.CONFIG: each changes what the statement lets it change. -/
theorem test_witness_ControlStateWriters :
    (∃ t, exec .clkTick irqS = .next t ∧ decide (t.clock = irqS.clock + 1) = true) ∧
    (∃ t, exec (.clkInit true) State.reset = .next t ∧ decide (t.mode = .run) = true) ∧
    (∃ t, exec .irqEnable runS = .next t ∧ decide (t.irqEn = true) = true) ∧
    ∃ t, exec (.canConfig []) runS = .next t ∧ decide (t.cfgDone = true) = true :=
  ⟨answers_with (by decide), answers_with (by decide), answers_with (by decide), answers_with (by decide)⟩

theorem test_witness_ParametersFixed :
    ∃ t, stepN 2 { fullS with env := [.reset, .offer .main 0x00010018 []] } = some t ∧ decide (t.mode = .run) = true :=
  runs_to (by decide)

theorem test_witness_OutputHistoryWriteOnly :
    ∃ t, exec (.canTransmit frame703) runS = .next t ∧ decide (t.out.length = 1) = true :=
  answers_with (by decide)

theorem test_witness_PseudoCommandsExpand :
    (Result.v { v := true }) = true ∧ (Result.v {}) = false ∧ 1 < Config.cfgV.gauges.length := by
  decide

end Sys2Proof.Tests
end

section
/-! SUPPORT. Runs: what every step keeps, every run keeps. -/

namespace Sys2Proof.Machine

theorem stepN_succ (k : Nat) (s : State) : stepN (k + 1) s =
    match step s with
    | .next t => stepN k t
    | .fault _ => none
    | .refused _ => none := (rfl)

/-- A run of `k + 1` steps is one step that answers a next state, then a run of `k` steps from there. -/
theorem stepN_succ_iff {k : Nat} {s u : State} :
    stepN (k + 1) s = some u ↔ ∃ t, step s = .next t ∧ stepN k t = some u := by
  rw [stepN_succ]
  cases step s <;> simp

/-- A reflexive and transitive relation that every step respects relates the two ends of every run. -/
theorem stepN_induction {R : State → State → Prop} (refl : ∀ s, R s s)
    (trans : ∀ {s t u}, R s t → R t u → R s u) (hstep : ∀ {s t}, step s = .next t → R s t)
    {k : Nat} {s u : State} (h : stepN k s = some u) : R s u := by
  induction k generalizing s with
  | zero =>
    obtain rfl : s = u := Option.some.inj h
    exact refl s
  | succ k ih =>
    obtain ⟨t, hst, htu⟩ := stepN_succ_iff.mp h
    exact trans (hstep hst) (ih htu)

end Sys2Proof.Machine
end

section
/-! The parameters are fixed (00_scope.md R8, 70_reset_and_hazards.md R362). -/

namespace Sys2Proof.Machine

/-! ## The operations that branch, and reset -/

@[simp] theorem enqueue_cfg (s : State) (f : Frame) : (enqueue s f).1.cfg = s.cfg := by
  rcases enqueue_cases s f with ⟨-, e⟩ | ⟨-, e⟩ <;> simp [e]

@[simp] theorem dequeue_cfg (s : State) : (dequeue s).1.cfg = s.cfg := by
  rcases dequeue_cases s with ⟨-, e⟩ | ⟨-, e⟩ <;> simp [e]

@[simp] theorem dispatchFrame_cfg (s : State) (f : Frame) : (dispatchFrame s f).1.cfg = s.cfg := by
  unfold dispatchFrame
  split <;> rfl

@[simp] theorem afterReset_cfg (s : State) (rest : List EnvEvent) : (s.afterReset rest).cfg = s.cfg := (rfl)

/-! ## Commands, steps and runs -/

/-- A command whose effect keeps the parameters keeps them in every outcome: its refusals and faults keep them anyway. -/
theorem command_cfg {op : Opcode} {s t : State} {cs : List Check} {e : State × Result}
    (h : command op s cs e = .next t) (he : e.1.cfg = s.cfg) : t.cfg = s.cfg := by
  rcases command_cases h with ⟨-, rfl⟩ | ⟨-, -, rfl⟩ | ⟨-, code, -, rfl⟩ | ⟨-, -, rfl⟩
  · rfl
  · exact takeFault_cfg s _ _
  · exact takeFault_cfg s _ _
  · exact (deliver_cfg e.1 e.2).trans he

/-- No command changes a parameter: none of the 24 effects writes them. -/
theorem exec_cfg {i : Instr} {s t : State} (h : exec i s = .next t) : t.cfg = s.cfg := by
  cases i with
  | fifoPop => exact command_cfg (cs := []) h (dequeue_cfg s)
  | fifoPush f | canRx f => exact command_cfg h (enqueue_cfg s f)
  | fifoFlush => exact command_cfg h (flushFifo_cfg s)
  | canDispatch f => exact command_cfg h (dispatchFrame_cfg s f)
  | canConfig entries => exact command_cfg h (emit_cfg _ _)
  | canTransmit f => exact command_cfg h (emit_cfg s _)
  | errDrain =>
    refine command_cfg (cs := []) h ?_
    dsimp only
    split <;> rfl
  | gaugeZero g | gaugeSettgt g p | gaugeStep g => exact command_cfg h (putGauge_cfg s _ _)
  | gaugeTrack g =>
    refine command_cfg h ?_
    split <;> rfl
  | fifoEmpty | fifoFull | fifoCount | clkRead | irqDisable | canTxdone slot | canBuserr code | clkTick =>
    exact command_cfg (cs := []) h rfl
  | telemRead sig | gaugeRead g | clkInit ok | irqEnable => exact command_cfg h rfl

/-- No step changes a parameter, whatever event the environment offers. -/
theorem step_cfg {s t : State} (h : step s = .next t) : t.cfg = s.cfg := by
  obtain ⟨-, ⟨-, -, rfl⟩ | ⟨rest, -, -, rfl⟩ | ⟨p, cmd, side, rest, -, offer⟩⟩ := step_cases h
  · rfl
  · exact afterReset_cfg s rest
  · rcases offer with ⟨-, -, rfl⟩ | ⟨-, -, -, rfl⟩ | ⟨-, i, -, -, hexec⟩
    · exact serving_cfg s p rest
    · exact (takeFault_cfg _ _ _).trans (serving_cfg s p rest)
    · exact (exec_cfg hexec).trans (serving_cfg s p rest)

/-- No run changes a parameter. -/
theorem stepN_cfg {k : Nat} {s t : State} (h : stepN k s = some t) : t.cfg = s.cfg :=
  stepN_induction (R := fun s t => t.cfg = s.cfg) (fun _ => rfl) (fun hst htu => htu.trans hst) step_cfg h

/-- Settles O58: every step keeps the parameters, so every run does. -/
theorem parametersFixed : Obligations.ParametersFixed := by
  intro k s t h
  exact stepN_cfg h

end Sys2Proof.Machine
end

section
/-! The fields, the well-formedness and the two payload views of a FRAME record (20_memory.md R81 to R86, 30_encoding.md
R120, R121, R125). -/

namespace Sys2Proof

/-! ## Fields and well-formedness (30_encoding.md R120, R121) -/

/-- An identifier bit range is that range of FW0: ID starts at bit 0. -/
theorem Frame.extractLsb'_id (f : Frame) {lo len : Nat} (h : lo + len ≤ 29) :
    f.id.extractLsb' lo len = f.fw0.extractLsb' lo len := by
  rw [Frame.id, BitVec.extractLsb'_extractLsb'_of_le h]

/-- The four checks of a well-formed record, read as conditions (a) to (d) of R121. -/
theorem Frame.wellFormed_iff (f : Frame) : f.wellFormed = true ↔
    f.rsv0 = 0 ∧ (f.ext = false → f.id.extractLsb' 11 18 = 0) ∧ f.dlc.toNat ≤ 8 ∧ f.rsv1 = 0 := by
  have standardId : (f.ext || f.id.extractLsb' 11 18 == 0) = true ↔
      (f.ext = false → f.id.extractLsb' 11 18 = 0) := by
    cases f.ext <;> simp
  simp only [Frame.wellFormed, Bool.and_eq_true, standardId, beq_iff_eq, decide_eq_true_eq, and_assoc]

/-! ## The byte view and the word view (20_memory.md R81, R83) -/

theorem Frame.byte_of_lt (f : Frame) {i : Nat} (h : i < 4) : f.byte i = f.fw2.extractLsb' (8 * i) 8 :=
  if_pos h

@[simp] theorem Frame.byte_add_four (f : Frame) (i : Nat) : f.byte (i + 4) = f.fw3.extractLsb' (8 * i) 8 :=
  if_neg (Nat.not_lt.mpr (Nat.le_add_left 4 i))

/-- A word of the payload is two bytes side by side, the lower-numbered byte the less significant. -/
theorem Frame.word_eq_append (f : Frame) (k : Nat) : f.word k = f.byte (2 * k + 1) ++ f.byte (2 * k) := by
  rw [Frame.word, BitVec.or_comm, ← BitVec.setWidth_append_eq_shiftLeft_setWidth_or]
  exact BitVec.setWidth_eq _

theorem Frame.toNat_word (f : Frame) (k : Nat) :
    (f.word k).toNat = (f.byte (2 * k)).toNat + 256 * (f.byte (2 * k + 1)).toNat := by
  rw [Frame.word_eq_append, BitVec.toNat_append, ← Nat.shiftLeft_add_eq_or_of_lt (f.byte (2 * k)).isLt,
    Nat.shiftLeft_eq]
  omega

/-- Two adjacent bytes of an operand word are 16 bits of it. -/
theorem extractLsb'_byte_append_byte (w : Word) (k : Nat) :
    w.extractLsb' (8 * (2 * k + 1)) 8 ++ w.extractLsb' (8 * (2 * k)) 8 = w.extractLsb' (16 * k) 16 := by
  rw [BitVec.extractLsb'_append_extractLsb'_eq_extractLsb' (by omega)]
  congr 1
  omega

/-- The first two words of the payload are the halves of FW2. -/
theorem Frame.word_of_lt (f : Frame) {k : Nat} (h : k < 2) : f.word k = f.fw2.extractLsb' (16 * k) 16 := by
  rw [Frame.word_eq_append, f.byte_of_lt (show 2 * k + 1 < 4 by omega), f.byte_of_lt (show 2 * k < 4 by omega),
    extractLsb'_byte_append_byte]

/-- The last two words of the payload are the halves of FW3. -/
@[simp] theorem Frame.word_add_two (f : Frame) (k : Nat) : f.word (k + 2) = f.fw3.extractLsb' (16 * k) 16 := by
  rw [Frame.word_eq_append, show 2 * (k + 2) + 1 = 2 * k + 1 + 4 by omega, show 2 * (k + 2) = 2 * k + 4 by omega,
    Frame.byte_add_four, Frame.byte_add_four, extractLsb'_byte_append_byte]

namespace Machine

/-! ## Decode fields (30_encoding.md R125, 41_can.md R201) -/

@[simp] theorem inRange_byte (off : Nat) (f : Frame) : inRange (.byte off) f = true ↔ off < f.dlc.toNat :=
  decide_eq_true_iff

@[simp] theorem inRange_word (idx : Nat) (f : Frame) : inRange (.word idx) f = true ↔ 2 * idx + 1 < f.dlc.toNat :=
  decide_eq_true_iff

@[simp] theorem inRange_bit (off pos : Nat) (f : Frame) : inRange (.bit off pos) f = true ↔ off < f.dlc.toNat :=
  decide_eq_true_iff

@[simp] theorem toNat_fieldValue_byte (off : Nat) (f : Frame) :
    (fieldValue (.byte off) f).toNat = (f.byte off).toNat :=
  BitVec.toNat_setWidth_of_le (by decide)

@[simp] theorem fieldValue_word (idx : Nat) (f : Frame) : fieldValue (.word idx) f = f.word idx := (rfl)

/-- A BIT field is 0 or 1, the one bit that it names. -/
@[simp] theorem toNat_fieldValue_bit (off pos : Nat) (f : Frame) :
    (fieldValue (.bit off pos) f).toNat = if (f.byte off).getLsbD pos then 1 else 0 := by
  have bit : (f.byte off >>> pos) &&& 1 = (BitVec.ofBool ((f.byte off).getLsbD pos)).setWidth 8 :=
    BitVec.and_one_eq_setWidth_ofBool_getLsbD.trans (by rw [BitVec.getLsbD_ushiftRight, Nat.add_zero])
  rw [fieldValue, bit, BitVec.toNat_setWidth_of_le (by decide), BitVec.toNat_setWidth_of_le (by decide),
    BitVec.toNat_ofBool, Bool.toNat, Bool.cond_eq_ite]

/-- Settles O45: the fields and ranges are the accessors', well-formedness is R121's conditions, and each view of the
payload is a slice of the operand words. -/
theorem payloadViews : Obligations.PayloadViews := by
  refine ⟨rfl, fun f => ⟨⟨rfl, rfl, rfl, rfl⟩, ?wellFormed, (inRange_byte · f), (inRange_bit · · f), (inRange_word · f),
    fun i hi => ⟨f.byte_of_lt hi, f.byte_add_four i⟩, fun k _ => f.toNat_word k,
    f.word_of_lt (k := 0) (by decide), f.word_of_lt (k := 1) (by decide), f.word_add_two 0, f.word_add_two 1,
    (toNat_fieldValue_byte · f), f.toNat_word, (toNat_fieldValue_bit · · f)⟩⟩
  case wellFormed =>
    rw [← f.extractLsb'_id (lo := 11) (len := 18) (by decide)]
    exact f.wellFormed_iff

end Machine
end Sys2Proof
end

section
/-! The opcode map read row by row: a row fixes the OP field, so one row at most matches a word (30_encoding.md R111, R115 to
R117). -/

namespace Sys2Proof

/-! ## A row and its OP value -/

/-- A row's match/mask test as the spec writes it (R115). -/
theorem Row.accepts_eq_true (r : Row) (cmd : Word) : r.accepts cmd = true ↔ cmd &&& r.mask = r.pattern :=
  beq_iff_eq

/-- Every row's mask covers the whole OP field, and its pattern holds the OP value of its opcode there. -/
theorem row_fixes_op : ∀ r ∈ rows, cmdOp r.mask = BitVec.allOnes 6 ∧ cmdOp r.pattern = r.op.code := by
  decide

/-- No opcode has two rows, and no two opcodes one OP value. -/
theorem row_eq_of_code_eq : ∀ r ∈ rows, ∀ r' ∈ rows, r.op.code = r'.op.code → r = r' := by
  decide

/-- A word that a row accepts has the OP value of the row's opcode. -/
theorem cmdOp_of_accepts {r : Row} (hr : r ∈ rows) {cmd : Word} (h : r.accepts cmd = true) : cmdOp cmd = r.op.code := by
  obtain ⟨maskOp, patternOp⟩ := row_fixes_op r hr
  obtain ⟨-, -, -, -, hop⟩ := (accepts_iff r cmd).mp h
  rwa [maskOp, patternOp, BitVec.and_allOnes] at hop

/-- Two rows that accept one word are the same row: the OP value of the word names it. -/
theorem row_eq_of_accepts {r r' : Row} (hr : r ∈ rows) (hr' : r' ∈ rows) {cmd : Word} (h : r.accepts cmd = true)
    (h' : r'.accepts cmd = true) : r = r' :=
  row_eq_of_code_eq r hr r' hr' ((cmdOp_of_accepts hr h).symm.trans (cmdOp_of_accepts hr' h'))

/-! ## The opcode of a word -/

/-- A row that the search finds is a row of the map that accepts the word. -/
theorem accepts_of_find {cmd : Word} {r : Row} (found : rows.find? (·.accepts cmd) = some r) :
    r ∈ rows ∧ r.accepts cmd = true :=
  ⟨List.mem_of_find?_eq_some found, List.find?_some (p := fun r : Row => r.accepts cmd) found⟩

/-- The opcode of a word is that of any row that accepts it: the first such row is the only one. -/
theorem decodeOpcode_eq_some_iff {cmd : Word} {op : Opcode} :
    decodeOpcode cmd = some op ↔ ∃ r ∈ rows, r.op = op ∧ r.accepts cmd = true := by
  rw [decodeOpcode, Option.map_eq_some_iff]
  constructor
  · rintro ⟨r, found, hop⟩
    obtain ⟨hr, hacc⟩ := accepts_of_find found
    exact ⟨r, hr, hop, hacc⟩
  · rintro ⟨r, hr, hop, hacc⟩
    have somewhere : (rows.find? (·.accepts cmd)).isSome := List.find?_isSome.mpr ⟨r, hr, hacc⟩
    obtain ⟨first, found⟩ := Option.isSome_iff_exists.mp somewhere
    obtain ⟨hfirst, firstAcc⟩ := accepts_of_find found
    have only : first = r := row_eq_of_accepts hfirst hr firstAcc hacc
    exact ⟨r, only ▸ found, hop⟩

/-- A word names no opcode exactly if no row accepts it. -/
theorem decodeOpcode_eq_none_iff {cmd : Word} : decodeOpcode cmd = none ↔ ∀ r ∈ rows, ¬ r.accepts cmd = true := by
  rw [decodeOpcode, Option.map_eq_none_iff, List.find?_eq_none]

theorem decode_of_decodeOpcode_none {cmd : Word} (h : decodeOpcode cmd = none) (side : List Word) :
    decode cmd side = .error .illegalOp := by
  rw [decode, h]

theorem decode_of_decodeOpcode_some {cmd : Word} {op : Opcode} (h : decodeOpcode cmd = some op) (side : List Word) :
    decode cmd side = assemble op cmd side := by
  rw [decode, h]

/-- Settles O3: the OP value names the row, so the first row that accepts a word is the only one; a word without a row is
refused before its side band is read. -/
theorem oneRowPerWord : Obligations.OneRowPerWord := by
  refine ⟨fun cmd r hr r' hr' h h' => ?unique, fun cmd op => ?command, fun cmd side noRow => ?reserved⟩
  case unique => exact row_eq_of_accepts hr hr' ((r.accepts_eq_true cmd).mpr h) ((r'.accepts_eq_true cmd).mpr h')
  case command => simp only [decodeOpcode_eq_some_iff, Row.accepts_eq_true]
  case reserved =>
    exact decode_of_decodeOpcode_none
      (decodeOpcode_eq_none_iff.mpr fun r hr h => noRow r hr ((r.accepts_eq_true cmd).mp h)) side

end Sys2Proof
end

section
/-! The side band of a command: which lengths the decoder reads (30_encoding.md R119). -/

namespace Sys2Proof

/-! ## Each shape of side band, read as a command of one opcode -/

/-- The decoder reads a command of opcode `op`. -/
def ReadsAs (op : Opcode) (r : Except DecodeError Instr) : Prop := ∃ i, r = .ok i ∧ i.opcode = op

theorem readsAs_ok {op : Opcode} {i : Instr} : ReadsAs op (.ok i) ↔ i.opcode = op := by
  simp [ReadsAs]

theorem not_readsAs_error {op : Opcode} {e : DecodeError} : ¬ ReadsAs op (.error e) := by
  simp [ReadsAs]

/-- A command without side-band words is read from the empty side band alone. -/
theorem readsAs_bare {op : Opcode} {i : Instr} (hi : i.opcode = op) (side : List Word) :
    ReadsAs op (bare side i) ↔ side.length = 0 := by
  cases side with
  | nil => exact iff_of_true (readsAs_ok.mpr hi) rfl
  | cons w ws => exact iff_of_false not_readsAs_error (Nat.succ_ne_zero ws.length)

/-- A command with a CODE is read from one word. -/
theorem readsAs_withCode {op : Opcode} {i : Word → Instr} (hi : ∀ w, (i w).opcode = op) (side : List Word) :
    ReadsAs op (withCode side i) ↔ side.length = 1 := by
  match side with
  | [] => exact iff_of_false not_readsAs_error (by decide)
  | [w] => exact iff_of_true (readsAs_ok.mpr (hi w)) rfl
  | _ :: _ :: _ => exact iff_of_false not_readsAs_error (by simp)

/-- A command with a FRAME record is read from four words. -/
theorem readsAs_withFrame {op : Opcode} {i : Frame → Instr} (hi : ∀ f, (i f).opcode = op) (side : List Word) :
    ReadsAs op (withFrame side i) ↔ side.length = 4 := by
  match side with
  | [w0, w1, w2, w3] => exact iff_of_true (readsAs_ok.mpr (hi ⟨w0, w1, w2, w3⟩)) rfl
  | [] | [_] | [_, _] | [_, _, _] => exact iff_of_false not_readsAs_error (by simp)
  | _ :: _ :: _ :: _ :: _ :: _ => exact iff_of_false not_readsAs_error (by simp)

/-- A command with K FILTER entries is read from 2·K words. -/
theorem readsAs_withFilters {op : Opcode} {i : List FilterEntry → Instr} (hi : ∀ es, (i es).opcode = op) (k : Half)
    (side : List Word) : ReadsAs op (withFilters k side i) ↔ side.length = 2 * k.toNat := by
  rw [← filterEntries_length side k.toNat, withFilters]
  cases filterEntries side with
  | none => simp [not_readsAs_error]
  | some es =>
    by_cases hk : es.length = k.toNat
    · simp [hk, readsAs_ok, hi es]
    · simp [hk, not_readsAs_error]

/-! ## The side band of each opcode -/

/-- The command of an opcode is read exactly from as many side-band words as R119 gives it. -/
theorem readsAs_assemble (op : Opcode) (cmd : Word) (side : List Word) :
    ReadsAs op (assemble op cmd side) ↔ side.length = sideBandWords op cmd := by
  cases op with
  | fifoPush | canRx | canDispatch | canTransmit => exact readsAs_withFrame (by intro f; rfl) side
  | canConfig => exact readsAs_withFilters (by intro es; rfl) (cmdImm cmd) side
  | canBuserr => exact readsAs_withCode (by intro w; rfl) side
  | fifoPop | fifoEmpty | fifoFull | fifoFlush | fifoCount | errDrain | telemRead => exact readsAs_bare rfl side
  | gaugeZero | gaugeSettgt | gaugeStep | gaugeTrack | gaugeRead => exact readsAs_bare rfl side
  | clkInit | clkRead | irqEnable | irqDisable | canTxdone | clkTick => exact readsAs_bare rfl side

/-- The number of side-band words as R119 lists it. -/
theorem sideBandWords_eq (op : Opcode) (cmd : Word) : sideBandWords op cmd =
    if op = .fifoPush ∨ op = .canRx ∨ op = .canDispatch ∨ op = .canTransmit then 4
    else if op = .canConfig then 2 * (cmdImm cmd).toNat
    else if op = .canBuserr then 1
    else 0 := by
  cases op <;> rfl

/-- Settles O5: a word with a row is read as its opcode's command, and each opcode's reader asks for one length. -/
theorem sideBandLengths : Obligations.SideBandLengths := by
  intro cmd side op hop
  rw [← sideBandWords_eq, decode_of_decodeOpcode_some hop]
  exact readsAs_assemble op cmd side

end Sys2Proof
end

section
/-! Filters: the FILTER entries that are well-formed, and the frames that a filter matches (30_encoding.md R122, 41_can.md R190,
R194). -/

namespace Sys2Proof

/-! ## FILTER entries (30_encoding.md R122) -/

/-- Bits 11 to 28 of an entry's identifier and mask are those bits of EW0 and EW1: both fields start at bit 0. -/
theorem FilterEntry.extractLsb'_id (e : FilterEntry) {lo len : Nat} (h : lo + len ≤ 29) :
    e.id.extractLsb' lo len = e.ew0.extractLsb' lo len := by
  rw [FilterEntry.id, BitVec.extractLsb'_extractLsb'_of_le h]

theorem FilterEntry.extractLsb'_mask (e : FilterEntry) {lo len : Nat} (h : lo + len ≤ 29) :
    e.mask.extractLsb' lo len = e.ew1.extractLsb' lo len := by
  rw [FilterEntry.mask, BitVec.extractLsb'_extractLsb'_of_le h]

/-- The checks of a well-formed entry, read as the conditions of R122. -/
theorem FilterEntry.wellFormed_iff (e : FilterEntry) : e.wellFormed = true ↔
    e.ew0.extractLsb' 30 2 = 0 ∧ e.ew1.extractLsb' 29 3 = 0 ∧
      (e.ext = false → e.id.extractLsb' 11 18 = 0 ∧ e.mask.extractLsb' 11 18 = 0) := by
  have standard : (e.ext || (e.id.extractLsb' 11 18 == 0 && e.mask.extractLsb' 11 18 == 0)) = true ↔
      (e.ext = false → e.id.extractLsb' 11 18 = 0 ∧ e.mask.extractLsb' 11 18 = 0) := by
    cases e.ext <;> simp
  simp only [FilterEntry.wellFormed, Bool.and_eq_true, standard, beq_iff_eq, and_assoc]

namespace Machine

/-! ## The match (41_can.md R190) -/

theorem filterMatch_iff (r : FilterRec) (f : Frame) : filterMatch r f = true ↔
    r.valid = true ∧ r.ext = f.ext ∧ f.id &&& r.mask = r.id &&& r.mask := by
  simp only [filterMatch, Bool.and_eq_true, beq_iff_eq, and_assoc]

/-- An identifier is its 18 upper bits, the 9 bits that the mask 0x7FC tests, and its two lowest. -/
theorem identifier_eq_append (x : BitVec 29) :
    x = (x.extractLsb' 11 18 ++ x.extractLsb' 2 9) ++ x.extractLsb' 0 2 := by
  rw [BitVec.extractLsb'_append_extractLsb'_eq_extractLsb' (by rfl),
    BitVec.extractLsb'_append_extractLsb'_eq_extractLsb' (by rfl)]
  exact BitVec.extractLsb'_eq_self.symm

/-- The mask 0x7FC tests bits 2 to 10 and no others. -/
theorem and_7FC_eq_700_iff (x : BitVec 29) : x &&& 0x7FC = 0x700 ↔ x.extractLsb' 2 9 = 0x1C0 := by
  have mask : (0x7FC : BitVec 29) = (BitVec.zero 18 ++ BitVec.allOnes 9) ++ BitVec.zero 2 := rfl
  have value : (0x700 : BitVec 29) = (BitVec.zero 18 ++ (0x1C0 : BitVec 9)) ++ BitVec.zero 2 := rfl
  conv_lhs => rw [identifier_eq_append x, mask, value]
  rw [append_and_append, append_and_append, append_eq_append, append_eq_append,
    BitVec.and_allOnes]
  simp

/-- Of the 11-bit identifiers, the mask 0x7FC takes for 0x700 the four from there on. -/
theorem and_7FC_eq_700_iff_range {x : BitVec 29} (standard : x.extractLsb' 11 18 = 0) :
    x &&& 0x7FC = 0x700 ↔ 0x700 ≤ x.toNat ∧ x.toNat ≤ 0x703 := by
  have upper : x.toNat / 2 ^ 11 % 2 ^ 18 = 0 := by
    simpa [Nat.shiftRight_eq_div_pow] using congrArg BitVec.toNat standard
  have tested : x.extractLsb' 2 9 = 0x1C0 ↔ x.toNat / 2 ^ 2 % 2 ^ 9 = 0x1C0 := by
    rw [← BitVec.toNat_inj, BitVec.extractLsb'_toNat, Nat.shiftRight_eq_div_pow]
    rfl
  rw [and_7FC_eq_700_iff, tested]
  have := x.isLt
  omega

/-- The filter (0x700, 0x7FC) of standard identifiers against a well-formed frame (41_can.md R194). -/
theorem filterMatch_700_7FC_iff {f : Frame} (hf : f.wellFormed = true) :
    filterMatch ⟨true, false, 0x700, 0x7FC⟩ f = true ↔ f.ext = false ∧ 0x700 ≤ f.id.toNat ∧ f.id.toNat ≤ 0x703 := by
  obtain ⟨-, standard, -, -⟩ := f.wellFormed_iff.mp hf
  have masked : (0x700 : BitVec 29) &&& 0x7FC = 0x700 := rfl
  rw [filterMatch_iff, masked]
  constructor
  · rintro ⟨-, hext, hid⟩
    exact ⟨hext.symm, (and_7FC_eq_700_iff_range (standard hext.symm)).mp hid⟩
  · rintro ⟨hext, hrange⟩
    exact ⟨rfl, hext.symm, (and_7FC_eq_700_iff_range (standard hext)).mpr hrange⟩

/-- Settles O44: the match is the masked comparison, which for (0x700, 0x7FC) leaves the two lowest identifier bits free, and a
FILTER entry is checked on the words it comes in. -/
theorem filterSemantics : Obligations.FilterSemantics := by
  refine ⟨filterMatch_iff, fun _ => filterMatch_700_7FC_iff, fun e => ⟨rfl, rfl, rfl, ?wellFormed⟩⟩
  case wellFormed =>
    rw [← e.extractLsb'_id (lo := 11) (len := 18) (by decide), ← e.extractLsb'_mask (lo := 11) (len := 18) (by decide)]
    exact e.wellFormed_iff

end Machine
end Sys2Proof
end

section
/-! Result records: what a command delivers, on which channel, and the fields it names (30_encoding.md R126). -/

namespace Sys2Proof.Machine

/-! ## The fields a command names -/

/-- The commands whose result is a B, alone or with a D (R115). -/
def namesB : List Opcode :=
  [.fifoEmpty, .fifoFull, .canDispatch, .errDrain, .gaugeStep, .gaugeTrack, .fifoPush, .canRx]

/-- The commands whose result is a D, alone or with a B (R115). -/
def namesD : List Opcode := [.fifoCount, .errDrain, .clkRead]

/-- The fields that a command does not name are 0 in the record (30_encoding.md R115, R126). -/
def Result.OnlyNames (r : Result) (op : Opcode) : Prop :=
  (op ≠ .fifoPop → r.v = false ∧ r.f = Frame.zero) ∧
    (op ∉ namesB → r.b = false) ∧ (op ∉ namesD → r.d = 0) ∧
    (op ≠ .telemRead → r.s = SigRec.zero) ∧ (op ≠ .gaugeRead → r.q = GaugeRec.zero)

/-- A record without a result names nothing. -/
theorem onlyNames_none (op : Opcode) : Result.OnlyNames {} op :=
  ⟨fun _ => ⟨rfl, rfl⟩, fun _ => rfl, fun _ => rfl, fun _ => rfl, fun _ => rfl⟩

/-- A record of B alone suits every command that names B. -/
theorem onlyNames_b {op : Opcode} (b : Bool) (h : op ∈ namesB) : Result.OnlyNames { b := b } op :=
  ⟨fun _ => ⟨rfl, rfl⟩, fun hop => absurd h hop, fun _ => rfl, fun _ => rfl, fun _ => rfl⟩

/-- A record of D alone suits every command that names D. -/
theorem onlyNames_d {op : Opcode} (d : Word) (h : op ∈ namesD) : Result.OnlyNames { d := d } op :=
  ⟨fun _ => ⟨rfl, rfl⟩, fun _ => rfl, fun hop => absurd h hop, fun _ => rfl, fun _ => rfl⟩

/-! ## What an effect leaves unchanged -/

/-- The effect of a command on `s`, before its result: no record delivered, the port kept, and no fault taken. -/
structure SilentEffect (s u : State) : Prop where
  resMain : u.resMain = s.resMain
  resIrq : u.resIrq = s.resIrq
  port : u.port = s.port
  mode : u.mode = .faulted → s.mode = .faulted

theorem SilentEffect.refl (s : State) : SilentEffect s s := ⟨rfl, rfl, rfl, id⟩

theorem emit_silent (s : State) (e : OutEvent) : SilentEffect s (s.emit e) := ⟨rfl, rfl, rfl, id⟩

theorem putGauge_silent (s : State) (g : Nat) (r : GaugeRec) : SilentEffect s (s.putGauge g r) :=
  ⟨rfl, rfl, rfl, id⟩

/-- An effect with the record that it is delivered with, by a command of opcode `op`. -/
def EffectDelivers (op : Opcode) (s : State) (e : State × Result) : Prop :=
  SilentEffect s e.1 ∧ e.2.OnlyNames op

theorem enqueue_delivers {op : Opcode} (h : op = .fifoPush ∨ op = .canRx) (s : State) (f : Frame) :
    EffectDelivers op s (enqueue s f) := by
  have named (b : Bool) : Result.OnlyNames { b := b } op := onlyNames_b b (by rcases h with rfl | rfl <;> decide)
  rcases enqueue_cases s f with ⟨-, e⟩ | ⟨-, e⟩ <;> rw [e]
  · exact ⟨.refl s, named false⟩
  · exact ⟨⟨rfl, rfl, rfl, id⟩, named true⟩

theorem dequeue_delivers (s : State) : EffectDelivers .fifoPop s (dequeue s) := by
  rcases dequeue_cases s with ⟨-, e⟩ | ⟨-, e⟩ <;> rw [e]
  · exact ⟨.refl s, onlyNames_none _⟩
  · exact ⟨⟨rfl, rfl, rfl, id⟩, fun hop => absurd rfl hop, fun _ => rfl, fun _ => rfl, fun _ => rfl, fun _ => rfl⟩

theorem dispatchFrame_delivers (s : State) (f : Frame) : EffectDelivers .canDispatch s (dispatchFrame s f) := by
  unfold dispatchFrame
  split
  · exact ⟨.refl s, onlyNames_b _ (by decide)⟩
  · exact ⟨⟨rfl, rfl, rfl, id⟩, onlyNames_b _ (by decide)⟩

/-! ## The effect and the result of each command -/

/-- Every command is one use of the shared handling, with an effect that leaves the result channels alone and a record of the
fields that the command names. -/
theorem exec_delivers (i : Instr) (s : State) :
    ∃ cs e, exec i s = command i.opcode s cs e ∧ EffectDelivers i.opcode s e := by
  cases i with
  | fifoPop => exact ⟨_, _, exec_fifoPop_eq s, dequeue_delivers s⟩
  | fifoPush f => exact ⟨_, _, exec_fifoPush_eq f s, enqueue_delivers (.inl rfl) s f⟩
  | canRx f => exact ⟨_, _, exec_canRx_eq f s, enqueue_delivers (.inr rfl) s f⟩
  | fifoEmpty => exact ⟨_, _, exec_fifoEmpty_eq s, .refl s, onlyNames_b _ (by decide)⟩
  | fifoFull => exact ⟨_, _, exec_fifoFull_eq s, .refl s, onlyNames_b _ (by decide)⟩
  | fifoCount => exact ⟨_, _, exec_fifoCount_eq s, .refl s, onlyNames_d _ (by decide)⟩
  | clkRead => exact ⟨_, _, exec_clkRead_eq s, .refl s, onlyNames_d _ (by decide)⟩
  | fifoFlush => exact ⟨_, _, exec_fifoFlush_eq s, ⟨rfl, rfl, rfl, id⟩, onlyNames_none _⟩
  | canConfig entries =>
    exact ⟨_, _, exec_canConfig_eq entries s, ⟨rfl, rfl, rfl, id⟩, onlyNames_none _⟩
  | canDispatch f => exact ⟨_, _, exec_canDispatch_eq f s, dispatchFrame_delivers s f⟩
  | canTransmit f => exact ⟨_, _, exec_canTransmit_eq f s, emit_silent s _, onlyNames_none _⟩
  | errDrain =>
    refine ⟨_, _, exec_errDrain_eq s, ?_, fun _ => ⟨rfl, rfl⟩, fun hop => absurd (by decide) hop,
      fun hop => absurd (by decide) hop, fun _ => rfl, fun _ => rfl⟩
    dsimp only
    split
    · exact ⟨rfl, rfl, rfl, id⟩
    · exact .refl s
  | telemRead sig =>
    exact ⟨_, _, exec_telemRead_eq sig s, .refl s, fun _ => ⟨rfl, rfl⟩, fun _ => rfl, fun _ => rfl,
      fun hop => absurd rfl hop, fun _ => rfl⟩
  | gaugeRead g =>
    exact ⟨_, _, exec_gaugeRead_eq g s, .refl s, fun _ => ⟨rfl, rfl⟩, fun _ => rfl, fun _ => rfl, fun _ => rfl,
      fun hop => absurd rfl hop⟩
  | gaugeZero g => exact ⟨_, _, exec_gaugeZero_eq g s, putGauge_silent s _ _, onlyNames_none _⟩
  | gaugeSettgt g p => exact ⟨_, _, exec_gaugeSettgt_eq g p s, putGauge_silent s _ _, onlyNames_none _⟩
  | gaugeStep g => exact ⟨_, _, exec_gaugeStep_eq g s, putGauge_silent s _ _, onlyNames_b (op := .gaugeStep) _ (by decide)⟩
  | gaugeTrack g =>
    refine ⟨_, _, exec_gaugeTrack_eq g s, ?_⟩
    split
    · exact ⟨.refl s, onlyNames_b (op := .gaugeTrack) _ (by decide)⟩
    · exact ⟨putGauge_silent s _ _, onlyNames_b (op := .gaugeTrack) _ (by decide)⟩
  | clkInit ok =>
    have mode : (if ok then Mode.run else Mode.halted) ≠ .faulted := by cases ok <;> decide
    exact ⟨_, _, exec_clkInit_eq ok s, ⟨rfl, rfl, rfl, (absurd · mode)⟩, onlyNames_none _⟩
  | irqEnable => exact ⟨_, _, exec_irqEnable_eq s, ⟨rfl, rfl, rfl, id⟩, onlyNames_none _⟩
  | irqDisable => exact ⟨_, _, exec_irqDisable_eq s, ⟨rfl, rfl, rfl, id⟩, onlyNames_none _⟩
  | canTxdone slot => exact ⟨_, _, exec_canTxdone_eq slot s, .refl s, onlyNames_none _⟩
  | canBuserr code => exact ⟨_, _, exec_canBuserr_eq code s, ⟨rfl, rfl, rfl, id⟩, onlyNames_none _⟩
  | clkTick => exact ⟨_, _, exec_clkTick_eq s, ⟨rfl, rfl, rfl, id⟩, onlyNames_none _⟩

/-! ## One record on one channel -/

/-- An effect delivers its record on the channel of the port of `s`, and the other channel stays as it was. -/
theorem SilentEffect.deliver_own_port {s u : State} (h : SilentEffect s u) (r : Result) :
    (s.port = .main → (u.deliver r).resMain = s.resMain ++ [r] ∧ (u.deliver r).resIrq = s.resIrq) ∧
    (s.port = .irq → (u.deliver r).resIrq = s.resIrq ++ [r] ∧ (u.deliver r).resMain = s.resMain) := by
  constructor
  · intro hp
    rw [deliver_main (h.port.trans hp), ← h.resMain, ← h.resIrq]
    exact ⟨rfl, rfl⟩
  · intro hp
    rw [deliver_irq (h.port.trans hp), ← h.resMain, ← h.resIrq]
    exact ⟨rfl, rfl⟩

/-- All that a command can do to the result channels: it is not admitted or faults, and they stay; or it is admitted, does not
fault, and delivers its one record. -/
theorem exec_results {i : Instr} {s t : State} (h : exec i s = .next t) :
    ((s.admits i.opcode = false ∨ t.mode = .faulted) ∧ t.resMain = s.resMain ∧ t.resIrq = s.resIrq) ∨
    (s.admits i.opcode = true ∧ t.mode ≠ .faulted ∧
      ∃ u r, SilentEffect s u ∧ r.OnlyNames i.opcode ∧ t = u.deliver r) := by
  obtain ⟨cs, ⟨u, r⟩, hexec, hu, hr⟩ := exec_delivers i s
  rw [hexec] at h
  rcases command_cases h with ⟨hn, rfl⟩ | ⟨-, -, rfl⟩ | ⟨-, code, -, rfl⟩ | ⟨ha, -, rfl⟩
  · exact .inl ⟨.inl hn, rfl, rfl⟩
  · exact .inl ⟨.inr rfl, rfl, rfl⟩
  · exact .inl ⟨.inr rfl, rfl, rfl⟩
  · obtain ⟨haccepting, -, -⟩ := (admits_iff s i.opcode).mp ha
    have notFaulted : (u.deliver r).mode ≠ .faulted := by
      intro hf
      rw [hu.mode ((deliver_mode u r).symm.trans hf)] at haccepting
      cases haccepting
    exact .inr ⟨ha, notFaulted, u, r, hu, hr, rfl⟩

/-- Settles O18: a command that completes delivers the record of its effect on its own port, and no other outcome touches a
result channel. -/
theorem oneResultPerCommand : Obligations.OneResultPerCommand := by
  intro i s t h
  rcases exec_results h with ⟨refused, kept⟩ | ⟨ha, hm, u, r, hu, hr, rfl⟩
  · refine ⟨fun ha hm => ?_, fun _ => kept⟩
    rcases refused with hn | hf
    · exact absurd (ha.symm.trans hn) (by decide)
    · exact absurd hf hm
  · refine ⟨fun _ _ => ⟨r, (hu.deliver_own_port r).1, (hu.deliver_own_port r).2, hr⟩, ?_⟩
    rintro (hn | hf)
    · exact absurd (ha.symm.trans hn) (by decide)
    · exact absurd hf hm

end Sys2Proof.Machine
end

section
/-! The FIFO as a queue along every run, and its capacity (40_fifo.md R154, R155). -/

namespace Sys2Proof.Machine

/-! ## The FIFO's part of the state -/

/-- All that COUNT and the queue read: the parameters, the slots and the two pointers (10_state.md R37 to R40). -/
def State.fifoPart (s : State) : Config × List Frame × Half × Bool × Half × Bool :=
  (s.cfg, s.slot, s.head, s.hwrap, s.tail, s.twrap)

theorem fifoPart_eq_iff {s t : State} : t.fifoPart = s.fifoPart ↔
    t.cfg = s.cfg ∧ t.slot = s.slot ∧ t.head = s.head ∧ t.hwrap = s.hwrap ∧ t.tail = s.tail ∧ t.twrap = s.twrap := by
  simp only [State.fifoPart, Prod.mk.injEq]

theorem count_of_fifoPart {s t : State} (h : t.fifoPart = s.fifoPart) : t.count = s.count := by
  obtain ⟨hcfg, -, hhead, hhwrap, htail, htwrap⟩ := fifoPart_eq_iff.mp h
  exact count_congr hcfg hhead hhwrap htail htwrap

theorem queued_of_fifoPart {s t : State} (h : t.fifoPart = s.fifoPart) : t.queued = s.queued := by
  obtain ⟨hcfg, hslot, hhead, hhwrap, htail, htwrap⟩ := fifoPart_eq_iff.mp h
  exact queued_congr hcfg hhead hhwrap htail htwrap hslot

theorem takeFault_fifoPart (s : State) (code : FaultCode) (op : BitVec 6) :
    (s.takeFault code op).fifoPart = s.fifoPart := (rfl)

theorem serving_fifoPart (s : State) (p : Port) (rest : List EnvEvent) : (s.serving p rest).fifoPart = s.fifoPart := (rfl)

theorem deliver_fifoPart (s : State) (r : Result) : (s.deliver r).fifoPart = s.fifoPart := by
  unfold State.deliver
  split <;> rfl

theorem dispatchFrame_fifoPart (s : State) (f : Frame) : (dispatchFrame s f).1.fifoPart = s.fifoPart := by
  unfold dispatchFrame
  split <;> rfl

/-- To the FIFO a reset is a flush. -/
theorem afterReset_fifoPart (s : State) (rest : List EnvEvent) :
    (s.afterReset rest).fifoPart = s.flushFifo.fifoPart := (rfl)

/-- A command whose effect leaves the FIFO alone leaves it alone in every outcome. -/
theorem command_fifoPart {op : Opcode} {s t : State} {cs : List Check} {e : State × Result}
    (h : command op s cs e = .next t) (he : e.1.fifoPart = s.fifoPart) : t.fifoPart = s.fifoPart := by
  rcases command_cases h with ⟨-, rfl⟩ | ⟨-, -, rfl⟩ | ⟨-, code, -, rfl⟩ | ⟨-, -, rfl⟩
  · rfl
  · exact takeFault_fifoPart s _ _
  · exact takeFault_fifoPart s _ _
  · exact (deliver_fifoPart e.1 e.2).trans he

/-! ## A FIFO whose pointers are in range -/

/-- The part of the invariant that the queue rests on: N slots, both pointers below N, COUNT ≤ N, for parameters that the
block runs on. -/
structure State.FifoSound (s : State) : Prop where
  admitted : s.cfg.admitted = true
  slots : s.slot.length = s.cfg.fifoDepth
  head_lt : s.head.toNat < s.cfg.fifoDepth
  tail_lt : s.tail.toNat < s.cfg.fifoDepth
  count_le : s.count ≤ s.cfg.fifoDepth

namespace State.FifoSound

theorem of_inv {s : State} (h : s.Inv) : s.FifoSound := by
  obtain ⟨hcfg, ⟨hslots, hhead, htail, hcount, -⟩, -⟩ := h
  exact ⟨hcfg, hslots, hhead, htail, hcount⟩

theorem depth_pos {s : State} (h : s.FifoSound) : 0 < s.cfg.fifoDepth := (fifoDepth_bounds h.admitted).1

theorem depth_le {s : State} (h : s.FifoSound) : s.cfg.fifoDepth ≤ 65535 := (fifoDepth_bounds h.admitted).2

theorem of_fifoPart {s t : State} (h : s.FifoSound) (part : t.fifoPart = s.fifoPart) : t.FifoSound := by
  have hcount := count_of_fifoPart part
  obtain ⟨hcfg, hslot, hhead, -, htail, -⟩ := fifoPart_eq_iff.mp part
  constructor <;> simp only [hcfg, hslot, hhead, htail, hcount]
  · exact h.admitted
  · exact h.slots
  · exact h.head_lt
  · exact h.tail_lt
  · exact h.count_le

theorem pushFrame {s : State} (h : s.FifoSound) (f : Frame) (notFull : s.count < s.cfg.fifoDepth) :
    (s.pushFrame f).FifoSound where
  admitted := h.admitted
  slots := (List.length_set ..).trans h.slots
  head_lt := h.head_lt
  tail_lt := advance_lt h.depth_le h.tail_lt s.twrap
  count_le := (pushFrame_count f h.depth_le h.head_lt h.tail_lt notFull).trans_le notFull

theorem popHead {s : State} (h : s.FifoSound) (notEmpty : s.count ≠ 0) : s.popHead.FifoSound where
  admitted := h.admitted
  slots := h.slots
  head_lt := advance_lt h.depth_le h.head_lt s.hwrap
  tail_lt := h.tail_lt
  count_le := by
    have oneLess := popHead_count h.depth_le h.head_lt h.tail_lt notEmpty
    have := h.count_le
    rw [popHead_cfg]
    omega

/-- A flush leaves a sound FIFO, whatever stood there. -/
theorem flushFifo {s : State} (hcfg : s.cfg.admitted = true) : s.flushFifo.FifoSound where
  admitted := hcfg
  slots := List.length_replicate
  head_lt := (fifoDepth_bounds hcfg).1
  tail_lt := (fifoDepth_bounds hcfg).1
  count_le := (flushFifo_count s).trans_le (Nat.zero_le _)

end State.FifoSound

theorem flushFifo_queued (s : State) : s.flushFifo.queued = [] :=
  List.length_eq_zero_iff.mp ((queued_length _).trans (flushFifo_count s))

/-! ## Replaying events -/

theorem replay_append (es es' : List FifoEvent) (q : List Frame) :
    replay (es ++ es') q = (replay es q).bind (replay es') := by
  induction es generalizing q with
  | nil => rfl
  | cons e es ih =>
    cases e with
    | pushed f => exact ih (q ++ [f])
    | cleared => exact ih []
    | popped f =>
      cases q with
      | nil => rfl
      | cons g q => by_cases oldest : f = g <;> simp [replay, oldest, ih]

/-- The events `es` take the queue that `s` holds to the queue that `t` holds, and the FIFO of `t` is sound. -/
structure Replays (s : State) (es : List FifoEvent) (t : State) : Prop where
  sound : t.FifoSound
  queue : replay es s.queued = some t.queued

namespace Replays

theorem append {s t u : State} {es es' : List FifoEvent} (earlier : Replays s es t) (later : Replays t es' u) :
    Replays s (es ++ es') u :=
  ⟨later.sound, by rw [replay_append, earlier.queue]; exact later.queue⟩

/-- No event is the replay of a transition that leaves the FIFO alone. -/
theorem unchanged {s t : State} (h : s.FifoSound) (part : t.fifoPart = s.fifoPart) : Replays s [] t :=
  ⟨h.of_fifoPart part, congrArg some (queued_of_fifoPart part).symm⟩

/-- A replay ends in any state with the same FIFO. -/
theorem of_fifoPart {s t u : State} {es : List FifoEvent} (h : Replays s es t) (part : u.fifoPart = t.fifoPart) :
    Replays s es u :=
  ⟨h.sound.of_fifoPart part, by rw [h.queue, queued_of_fifoPart part]⟩

theorem pushFrame {s : State} (h : s.FifoSound) (f : Frame) (notFull : s.count < s.cfg.fifoDepth) :
    Replays s [.pushed f] (s.pushFrame f) :=
  ⟨h.pushFrame f notFull, congrArg some (pushFrame_queued f h.depth_le h.slots h.head_lt h.tail_lt notFull).symm⟩

/-- The frame at HEAD is the oldest of the queue. -/
theorem popHead {s : State} (h : s.FifoSound) (notEmpty : s.count ≠ 0) :
    Replays s [.popped (s.slotAt s.head.toNat)] s.popHead :=
  ⟨h.popHead notEmpty, by rw [popHead_queued h.depth_le h.head_lt h.tail_lt notEmpty]; simp [replay]⟩

theorem flushFifo {s : State} (hcfg : s.cfg.admitted = true) : Replays s [.cleared] s.flushFifo :=
  ⟨.flushFifo hcfg, congrArg some (flushFifo_queued s).symm⟩

end Replays

/-! ## Commands -/

theorem delivered_takeFault (s : State) (code : FaultCode) (op : BitVec 6) : delivered s (s.takeFault code op) = [] := by
  simp [delivered]

theorem delivered_self (s : State) : delivered s s = [] := by
  simp [delivered]

/-- What a command that completes delivers is its one record. -/
theorem SilentEffect.delivered {s u : State} (h : SilentEffect s u) (r : Result) :
    Machine.delivered s (u.deliver r) = [r] := by
  obtain ⟨onMain, onIrq⟩ := h.deliver_own_port r
  cases port : s.port with
  | main => simp [Machine.delivered, onMain port]
  | irq => simp [Machine.delivered, onIrq port]

/-- Without a result a command did nothing to the FIFO. -/
theorem commandEvents_nil (i : Instr) : commandEvents i [] = [] := by
  cases i <;> rfl

/-- A command replays its events in every outcome if its effect, with the record it delivers, does. -/
theorem command_replays {i : Instr} {s t : State} {cs : List Check} {e : State × Result}
    (h : command i.opcode s cs e = .next t) (sound : s.FifoSound) (silent : SilentEffect s e.1)
    (effect : Replays s (commandEvents i [e.2]) e.1) : Replays s (commandEvents i (delivered s t)) t := by
  rcases command_cases h with ⟨-, rfl⟩ | ⟨-, -, rfl⟩ | ⟨-, code, -, rfl⟩ | ⟨-, -, rfl⟩
  · rw [delivered_self, commandEvents_nil]
    exact .unchanged sound rfl
  · rw [delivered_takeFault, commandEvents_nil]
    exact .unchanged sound (takeFault_fifoPart s _ _)
  · rw [delivered_takeFault, commandEvents_nil]
    exact .unchanged sound (takeFault_fifoPart s _ _)
  · rw [silent.delivered]
    exact effect.of_fifoPart (deliver_fifoPart e.1 e.2)

/-- Queueing a frame is a push with B = 1, or with B = 0 no event. -/
theorem enqueue_replays {s : State} (sound : s.FifoSound) (f : Frame) :
    Replays s (commandEvents (.fifoPush f) [(enqueue s f).2]) (enqueue s f).1 := by
  rcases enqueue_cases s f with ⟨-, e⟩ | ⟨notFull, e⟩ <;> rw [e]
  · exact .unchanged sound rfl
  · exact .pushFrame sound f (Nat.lt_of_le_of_ne sound.count_le notFull)

/-- A pop is of the oldest frame with V = 1, or with V = 0 no event. -/
theorem dequeue_replays {s : State} (sound : s.FifoSound) :
    Replays s (commandEvents .fifoPop [(dequeue s).2]) (dequeue s).1 := by
  rcases dequeue_cases s with ⟨-, e⟩ | ⟨notEmpty, e⟩ <;> rw [e]
  · exact .unchanged sound rfl
  · exact .popHead sound notEmpty

/-- Every command replays its events on the queue: four touch the FIFO, the effects of the others leave it alone. -/
theorem exec_replays {i : Instr} {s t : State} (h : exec i s = .next t) (sound : s.FifoSound) :
    Replays s (commandEvents i (delivered s t)) t := by
  cases i with
  | fifoPush f =>
    exact command_replays (i := .fifoPush f) h sound (enqueue_delivers (.inl rfl) s f).1 (enqueue_replays sound f)
  | canRx f =>
    exact command_replays (i := .canRx f) h sound (enqueue_delivers (.inr rfl) s f).1 (enqueue_replays sound f)
  | fifoPop => exact command_replays (i := .fifoPop) (cs := []) h sound (dequeue_delivers s).1 (dequeue_replays sound)
  | fifoFlush => exact command_replays (i := .fifoFlush) h sound ⟨rfl, rfl, rfl, id⟩ (.flushFifo sound.admitted)
  | canDispatch f => exact .unchanged sound (command_fifoPart h (dispatchFrame_fifoPart s f))
  | errDrain =>
    refine .unchanged sound (command_fifoPart (cs := []) h ?_)
    dsimp only
    split <;> rfl
  | gaugeTrack g =>
    refine .unchanged sound (command_fifoPart h ?_)
    split <;> rfl
  | fifoEmpty | fifoFull | fifoCount | clkRead | irqDisable | canTxdone slot | canBuserr code | clkTick =>
    exact .unchanged sound (command_fifoPart (cs := []) h rfl)
  | canConfig entries | canTransmit f | telemRead sig | gaugeZero g | gaugeSettgt g p | gaugeStep g | gaugeRead g
  | clkInit ok | irqEnable =>
    exact .unchanged sound (command_fifoPart h rfl)

/-! ## Steps and runs -/

theorem stepEvents_of_run {s t u : State} {i : Instr} (hf : fetch s = .run i t) (h : exec i t = .next u) :
    stepEvents s = commandEvents i (delivered t u) := by
  simp [stepEvents, hf, h]

theorem stepEvents_of_idle {s : State} {o : Host.Outcome State Fault Refusal} (hf : fetch s = .done o)
    (he : s.env = []) : stepEvents s = [] := by
  simp [stepEvents, hf, he]

theorem stepEvents_of_reset {s : State} {o : Host.Outcome State Fault Refusal} {rest : List EnvEvent}
    (hf : fetch s = .done o) (he : s.env = .reset :: rest) : stepEvents s = [.cleared] := by
  simp [stepEvents, hf, he]

/-- An offer that runs no command does nothing to the FIFO. -/
theorem stepEvents_of_offer {s : State} {o : Host.Outcome State Fault Refusal} {p : Port} {cmd : Word}
    {side : List Word} {rest : List EnvEvent} (hf : fetch s = .done o) (he : s.env = .offer p cmd side :: rest) :
    stepEvents s = [] := by
  simp [stepEvents, hf, he]

/-- Every step replays its events on the queue. -/
theorem step_replays {s t : State} (h : step s = .next t) (sound : s.FifoSound) : Replays s (stepEvents s) t := by
  obtain ⟨-, ⟨he, hf, rfl⟩ | ⟨rest, he, hf, rfl⟩ | ⟨p, cmd, side, rest, he, offer⟩⟩ := step_cases h
  · rw [stepEvents_of_idle hf he]
    exact .unchanged sound rfl
  · rw [stepEvents_of_reset hf he]
    exact (Replays.flushFifo sound.admitted).of_fifoPart (afterReset_fifoPart s rest)
  · rcases offer with ⟨-, hf, rfl⟩ | ⟨-, -, hf, rfl⟩ | ⟨-, i, -, hf, hexec⟩
    · rw [stepEvents_of_offer hf he]
      exact .unchanged sound (serving_fifoPart s p rest)
    · rw [stepEvents_of_offer hf he]
      exact .unchanged sound (takeFault_fifoPart (s.serving p rest) _ _)
    · rw [stepEvents_of_run hf hexec]
      have served := serving_fifoPart s p rest
      exact (Replays.unchanged sound served).append (exec_replays hexec (sound.of_fifoPart served))

theorem runEvents_succ {k : Nat} {s t : State} (h : step s = .next t) :
    runEvents (k + 1) s = stepEvents s ++ runEvents k t := by
  rw [runEvents, h]

/-- Every run replays its events on the queue. -/
theorem stepN_replays {k : Nat} {s u : State} (h : stepN k s = some u) (sound : s.FifoSound) :
    Replays s (runEvents k s) u := by
  induction k generalizing s with
  | zero =>
    obtain rfl : s = u := Option.some.inj h
    exact .unchanged sound rfl
  | succ k ih =>
    obtain ⟨t, hst, htu⟩ := stepN_succ_iff.mp h
    have first := step_replays hst sound
    rw [runEvents_succ hst]
    exact first.append (ih htu first.sound)

/-- Settles O38: every step takes the queue along its events, so a run does, by induction on its length. -/
theorem fifoRefinesQueue : Obligations.FifoRefinesQueue := by
  intro k s t hinv h
  exact (stepN_replays h (.of_inv hinv)).queue

/-! ## Capacity -/

/-- After reset the FIFO is sound, on every admitted configuration and whatever the environment offers. -/
theorem resetWith_fifoSound {c : Config} (hc : c.admitted = true) (env : List EnvEvent) :
    { State.resetWith c with env := env }.FifoSound :=
  (State.FifoSound.flushFifo (s := State.resetWith c) hc).of_fifoPart rfl

/-- An admitted command of the IRQ port that would queue a frame in a full FIFO and does not fault delivers B = 0 and does
nothing else. -/
theorem command_enqueue_full {op : Opcode} {s t : State} {cs : List Check} {f : Frame}
    (h : command op s cs (enqueue s f) = .next t) (hop : op.context = .irq) (ha : s.admits op = true)
    (full : s.count = s.cfg.fifoDepth) (noFault : t.mode ≠ .faulted) :
    t = { s with resIrq := s.resIrq ++ [{ b := false }] } := by
  obtain ⟨-, hport, -⟩ := (admits_iff s op).mp ha
  rcases command_cases h with ⟨hn, -⟩ | ⟨-, -, rfl⟩ | ⟨-, code, -, rfl⟩ | ⟨-, -, rfl⟩
  · exact absurd (ha.symm.trans hn) (by decide)
  · exact absurd rfl noFault
  · exact absurd rfl noFault
  · rcases enqueue_cases s f with ⟨-, e⟩ | ⟨notFull, -⟩
    · rw [e]
      exact deliver_irq (hport.trans hop) _
    · exact absurd full notFull

/-- Settles O40: a run from reset keeps the FIFO sound, and a push into a full FIFO only delivers its record. -/
theorem fifoCapacity : Obligations.FifoCapacity := by
  refine ⟨fun k c env t hc h => ?bound, fun i f s t hi ha full h noFault => ?full⟩
  case bound =>
    have countLe := (stepN_replays h (resetWith_fifoSound hc env)).sound.count_le
    rwa [stepN_cfg h] at countLe
  case full =>
    have dropped : t = { s with resIrq := s.resIrq ++ [{ b := false }] } := by
      rcases hi with rfl | rfl <;> exact command_enqueue_full h rfl ha full noFault
    subst dropped
    exact ⟨full, rfl, rfl⟩

end Sys2Proof.Machine
end

section
/-! Dispatch: the entry that matches a frame, and the signals that it writes (41_can.md R200 to R206). -/

namespace Sys2Proof.Machine

/-! ## The match (41_can.md R200) -/

theorem selectorMatch_iff (sel : Option Selector) (f : Frame) : selectorMatch sel f = true ↔
    ∀ x, sel = some x → x.off < f.dlc.toNat ∧ f.byte x.off = x.val := by
  cases sel <;> simp [selectorMatch]

theorem entryMatch_iff (e : DecodeEntry) (f : Frame) : entryMatch e f = true ↔
    e.ext = f.ext ∧ e.id = f.id ∧ ∀ x, e.sel = some x → x.off < f.dlc.toNat ∧ f.byte x.off = x.val := by
  simp only [entryMatch, Bool.and_eq_true, beq_iff_eq, selectorMatch_iff, and_assoc]

/-! ## An admitted decode table (41_can.md R206) -/

theorem selectorsApart_iff (a b : Option Selector) : selectorsApart a b = true ↔
    ∃ x y, a = some x ∧ b = some y ∧ x.off = y.off ∧ x.val ≠ y.val := by
  cases a <;> cases b <;> simp [selectorsApart]

theorem entriesApart_iff_pairwise (l : List DecodeEntry) :
    entriesApart l = true ↔ l.Pairwise fun a b => a.apart b = true := by
  induction l with
  | nil => simp [entriesApart]
  | cons e l ih => simp only [entriesApart, Bool.and_eq_true, List.all_eq_true, ih, List.pairwise_cons]

/-- Entries that are apart never match one frame: with one identifier they have selectors on one byte of two values. -/
theorem apart_eq_false_of_entryMatch {a b : DecodeEntry} {f : Frame} (ha : entryMatch a f = true)
    (hb : entryMatch b f = true) : a.apart b = false := by
  obtain ⟨aExt, aId, aSel⟩ := (entryMatch_iff a f).mp ha
  obtain ⟨bExt, bId, bSel⟩ := (entryMatch_iff b f).mp hb
  have notApart : selectorsApart a.sel b.sel ≠ true := by
    intro h
    obtain ⟨x, y, hx, hy, sameByte, otherValue⟩ := (selectorsApart_iff a.sel b.sel).mp h
    apply otherValue
    calc x.val = f.byte x.off := (aSel x hx).2.symm
      _ = f.byte y.off := by rw [sameByte]
      _ = y.val := (bSel y hy).2
  simp [DecodeEntry.apart, aExt, aId, bExt, bId, notApart]

/-- What dispatch uses of an admitted configuration: the entries are admitted one by one, and apart two by two. -/
theorem decodeTable_admitted {c : Config} (h : c.admitted = true) :
    (∀ e ∈ c.decodeTable, e.admitted c.numSignals = true) ∧ entriesApart c.decodeTable = true := by
  simp only [Config.admitted, Bool.and_eq_true, List.all_eq_true] at h
  obtain ⟨⟨⟨-, entries⟩, apart⟩, -⟩ := h
  exact ⟨entries, apart⟩

/-- The fields of an admitted entry write distinct signals, all of them in the store. -/
theorem fields_of_admitted {n : Nat} {e : DecodeEntry} (h : e.admitted n = true) :
    (e.fields.map FieldDesc.sig).Nodup ∧ ∀ d ∈ e.fields, d.sig < n := by
  simp only [DecodeEntry.admitted, Bool.and_eq_true, decide_eq_true_eq, List.all_eq_true] at h
  obtain ⟨⟨⟨-, fields⟩, -⟩, distinct⟩ := h
  refine ⟨distinct, fun d hd => ?_⟩
  have hsig := fields d hd
  simp only [FieldDesc.admitted, Bool.and_eq_true, decide_eq_true_eq] at hsig
  exact hsig.1

/-- At most one entry of an admitted table matches a frame. -/
theorem entryMatch_unique {c : Config} (hc : c.admitted = true) {a b : DecodeEntry} {f : Frame}
    (ha : a ∈ c.decodeTable) (hb : b ∈ c.decodeTable) (hma : entryMatch a f = true) (hmb : entryMatch b f = true) :
    a = b := by
  have apart := (entriesApart_iff_pairwise c.decodeTable).mp (decodeTable_admitted hc).2
  have never : c.decodeTable.Pairwise fun a b => ¬(entryMatch a f = true ∧ entryMatch b f = true) :=
    apart.imp fun h hm => by simp [apart_eq_false_of_entryMatch hm.1 hm.2] at h
  have : Std.Symm fun a b : DecodeEntry => ¬(entryMatch a f = true ∧ entryMatch b f = true) :=
    ⟨fun _ _ h hm => h hm.symm⟩
  by_contra different
  exact never.forall ha hb different ⟨hma, hmb⟩

/-- Settles O46: the match is the three comparisons, and two entries that match one frame are not apart. -/
theorem oneEntryPerFrame : Obligations.OneEntryPerFrame :=
  ⟨entryMatch_iff, fun _ _ hc _ ha _ hb => entryMatch_unique hc ha hb⟩

/-! ## The signals that one entry writes (41_can.md R202) -/

/-- The record that an in-range field writes to its signal. -/
def fieldRecord (f : Frame) (clock : Word) (d : FieldDesc) : SigRec :=
  { valid := true, value := fieldValue d.kind f, srcExt := f.ext, srcId := f.id, ts := clock }

theorem writeField_of_inRange {f : Frame} {d : FieldDesc} (h : inRange d.kind f = true) (clock : Word)
    (sigs : List SigRec) : writeField f clock sigs d = sigs.set d.sig (fieldRecord f clock d) :=
  if_pos h

@[simp] theorem length_writeField (f : Frame) (clock : Word) (sigs : List SigRec) (d : FieldDesc) :
    (writeField f clock sigs d).length = sigs.length := by
  unfold writeField
  split <;> simp

/-- A field changes no signal but its own, and its own only where it is in range. -/
theorem getD_writeField_of_kept {f : Frame} {d : FieldDesc} {x : Nat} (h : d.sig = x → inRange d.kind f = false)
    (clock : Word) (sigs : List SigRec) :
    (writeField f clock sigs d).getD x SigRec.zero = sigs.getD x SigRec.zero := by
  unfold writeField
  split
  · next inside =>
    have other : d.sig ≠ x := fun same => by simp [h same] at inside
    simp [List.getD_eq_getElem?_getD, List.getElem?_set_ne other]
  · rfl

/-- The in-range fields among `ds` wrote their signals, and every other signal is as it was. -/
structure SignalsWritten (f : Frame) (clock : Word) (ds : List FieldDesc) (old new : List SigRec) : Prop where
  length : new.length = old.length
  written : ∀ d ∈ ds, inRange d.kind f = true → new.getD d.sig SigRec.zero = fieldRecord f clock d
  kept : ∀ x, (∀ d ∈ ds, d.sig = x → inRange d.kind f = false) → new.getD x SigRec.zero = old.getD x SigRec.zero

/-- Writing fields of distinct signals one after the other writes all of them: none overwrites another. -/
theorem foldl_writeField (f : Frame) (clock : Word) {ds : List FieldDesc} {sigs : List SigRec}
    (distinct : (ds.map FieldDesc.sig).Nodup) (inStore : ∀ d ∈ ds, d.sig < sigs.length) :
    SignalsWritten f clock ds sigs (ds.foldl (writeField f clock) sigs) := by
  induction ds generalizing sigs with
  | nil => exact ⟨rfl, by simp, fun _ _ => rfl⟩
  | cons d ds ih =>
    rw [List.map_cons, List.nodup_cons] at distinct
    rw [List.forall_mem_cons] at inStore
    obtain ⟨dFresh, distinct⟩ := distinct
    obtain ⟨dInStore, inStore⟩ := inStore
    have rest := ih (sigs := writeField f clock sigs d) distinct (by simpa using inStore)
    refine ⟨by simpa using rest.length, ?written, fun x hx => ?kept⟩
    case written =>
      rw [List.forall_mem_cons]
      refine ⟨fun inside => ?_, rest.written⟩
      have unwritten : ∀ d' ∈ ds, d'.sig = d.sig → inRange d'.kind f = false :=
        fun d' hd' same => absurd (same ▸ List.mem_map_of_mem hd') dFresh
      rw [List.foldl_cons, rest.kept d.sig unwritten, writeField_of_inRange inside]
      simp [List.getD_eq_getElem?_getD, dInStore]
    case kept =>
      rw [List.forall_mem_cons] at hx
      exact (rest.kept x hx.2).trans (getD_writeField_of_kept hx.1 clock sigs)

/-- Writing the same fields again reads, of every signal, the same record but for TS. -/
theorem SignalsWritten.again {f : Frame} {clock clock' : Word} {ds : List FieldDesc} {s₀ s₁ s₂ : List SigRec}
    (first : SignalsWritten f clock ds s₀ s₁) (second : SignalsWritten f clock' ds s₁ s₂) (x : Nat) :
    s₂.getD x SigRec.zero = s₁.getD x SigRec.zero ∨
    ∃ d, s₁.getD x SigRec.zero = fieldRecord f clock d ∧ s₂.getD x SigRec.zero = fieldRecord f clock' d := by
  by_cases hx : ∃ d ∈ ds, d.sig = x ∧ inRange d.kind f = true
  · obtain ⟨d, hd, rfl, inside⟩ := hx
    exact .inr ⟨d, first.written d hd inside, second.written d hd inside⟩
  · refine .inl (second.kept x fun d hd same => ?_)
    exact Bool.eq_false_iff.mpr fun inside => hx ⟨d, hd, same, inside⟩

/-- Writing the same fields again at one CLOCK changes nothing. -/
theorem SignalsWritten.again_eq {f : Frame} {clock : Word} {ds : List FieldDesc} {s₀ s₁ s₂ : List SigRec}
    (first : SignalsWritten f clock ds s₀ s₁) (second : SignalsWritten f clock ds s₁ s₂) : s₂ = s₁ := by
  refine List.ext_getElem second.length fun x h₂ h₁ => ?_
  rw [← List.getD_eq_getElem s₂ SigRec.zero h₂, ← List.getD_eq_getElem s₁ SigRec.zero h₁]
  rcases first.again second x with same | ⟨d, hs₁, hs₂⟩
  · exact same
  · rw [hs₁, hs₂]

/-! ## CAN.DISPATCH (41_can.md R202, R203) -/

theorem dispatchFrame_of_unmatched {s : State} {f : Frame} (h : ∀ e ∈ s.cfg.decodeTable, entryMatch e f = false) :
    dispatchFrame s f = (s, { b := false }) := by
  have notFound : s.cfg.decodeTable.find? (entryMatch · f) = none := by simpa using h
  rw [dispatchFrame, notFound]

/-- The entry that the search finds first is the one that matches. -/
theorem dispatchFrame_of_entryMatch {s : State} {f : Frame} {e : DecodeEntry} (hc : s.cfg.admitted = true)
    (he : e ∈ s.cfg.decodeTable) (hm : entryMatch e f = true) :
    dispatchFrame s f = ({ s with sig := e.fields.foldl (writeField f s.clock) s.sig }, { b := true }) := by
  have found : s.cfg.decodeTable.find? (entryMatch · f) = some e := by
    cases hfind : s.cfg.decodeTable.find? (entryMatch · f) with
    | none => exact absurd hm (List.find?_eq_none.mp hfind e he)
    | some e' =>
      have hm' : entryMatch e' f = true := List.find?_some (p := (entryMatch · f)) hfind
      rw [entryMatch_unique hc (List.mem_of_find?_eq_some hfind) he hm' hm]
  rw [dispatchFrame, found]

/-- In RUN a well-formed frame passes both checks of CAN.DISPATCH; the result goes to the MAIN channel. -/
theorem exec_canDispatch_completes {f : Frame} {s : State} (hp : s.port = .main) (hf : f.wellFormed = true)
    (hm : s.mode = .run) : exec (.canDispatch f) s =
      .next { (dispatchFrame s f).1 with resMain := (dispatchFrame s f).1.resMain ++ [(dispatchFrame s f).2] } := by
  have portKept : (dispatchFrame s f).1.port = .main := (dispatchFrame_delivers s f).1.port.trans hp
  rw [exec_canDispatch_eq, ← deliver_main portKept]
  exact command_completes_main (by rw [hm]; rfl) hp rfl rfl (by simp [needsFrame, needsRun, hf, hm])

theorem exec_canDispatch_of_unmatched {f : Frame} {s : State} (hp : s.port = .main) (hf : f.wellFormed = true)
    (hm : s.mode = .run) (unmatched : ∀ e ∈ s.cfg.decodeTable, entryMatch e f = false) :
    exec (.canDispatch f) s = .next { s with resMain := s.resMain ++ [{ b := false }] } := by
  rw [exec_canDispatch_completes hp hf hm, dispatchFrame_of_unmatched unmatched]

/-- A matching entry writes its in-range fields, and nothing but the result is written beside them. -/
theorem exec_canDispatch_of_entryMatch {f : Frame} {s : State} {e : DecodeEntry} (hc : s.cfg.admitted = true)
    (hl : s.sig.length = s.cfg.numSignals) (hp : s.port = .main) (hf : f.wellFormed = true) (hm : s.mode = .run)
    (he : e ∈ s.cfg.decodeTable) (hmatch : entryMatch e f = true) :
    ∃ sigs, SignalsWritten f s.clock e.fields s.sig sigs ∧
      exec (.canDispatch f) s = .next { s with sig := sigs, resMain := s.resMain ++ [{ b := true }] } := by
  obtain ⟨distinct, inStore⟩ := fields_of_admitted ((decodeTable_admitted hc).1 e he)
  refine ⟨_, foldl_writeField f s.clock distinct (by rwa [hl]), ?_⟩
  rw [exec_canDispatch_completes hp hf hm, dispatchFrame_of_entryMatch hc he hmatch]

/-- Settles O26: the two checks in their order, then the dispatch through no entry or through the one that matches. -/
theorem canDispatchCompletes : Obligations.CanDispatchCompletes := by
  intro f s hc hl ha hp
  rw [exec_canDispatch_eq]
  refine ⟨fun hf => ?badFrame, fun hf hm => ?clockNotRunning, fun hf hm => exec_canDispatch_of_unmatched hp hf hm,
    fun hf hm e he hmatch => ?matched⟩
  case badFrame => exact command_faults_main ha hp rfl rfl (by simp [needsFrame, hf])
  case clockNotRunning => exact command_faults_main ha hp rfl rfl (by simp [needsFrame, needsRun, hf, hm])
  case matched =>
    obtain ⟨sigs, ⟨length, written, kept⟩, hexec⟩ := exec_canDispatch_of_entryMatch hc hl hp hf hm he hmatch
    exact ⟨_, hexec, rfl, length, written, kept⟩

/-! ## Dispatching a frame again (41_can.md R205) -/

/-- Settles O47: the second dispatch goes through the same entry, so it writes the same records but for TS. -/
theorem dispatchIdempotent : Obligations.DispatchIdempotent := by
  intro f s t u clock hinv hm hp hf hst htu
  obtain ⟨hc, -, -, ⟨hl, -⟩, -, -⟩ := hinv
  by_cases hmatch : ∃ e ∈ s.cfg.decodeTable, entryMatch e f = true
  · obtain ⟨e, he, hmatch⟩ := hmatch
    obtain ⟨s₁, first, hexec⟩ := exec_canDispatch_of_entryMatch hc hl hp hf hm he hmatch
    cases hexec.symm.trans hst
    obtain ⟨s₂, second, hexec⟩ := exec_canDispatch_of_entryMatch
      (s := { s with sig := s₁, clock := clock, resMain := s.resMain ++ [{ b := true }] })
      hc (first.length.trans hl) hp hf hm he hmatch
    cases hexec.symm.trans htu
    refine ⟨fun x => ?fields, fun e' he' hmatch' d hd inside => ?ts, ?sameClock⟩
    case fields =>
      rcases first.again second x with same | ⟨d, hs₁, hs₂⟩
      · simp only [State.sigAt, same, and_self]
      · simp only [State.sigAt, hs₁, hs₂, fieldRecord, and_self]
    case ts =>
      obtain rfl := entryMatch_unique hc he' he hmatch' hmatch
      exact congrArg SigRec.ts (second.written d hd inside)
    case sameClock =>
      rintro rfl
      exact first.again_eq second
  · have unmatched : ∀ e ∈ s.cfg.decodeTable, entryMatch e f = false :=
      fun e he => Bool.eq_false_iff.mpr fun h => hmatch ⟨e, he, h⟩
    cases (exec_canDispatch_of_unmatched hp hf hm unmatched).symm.trans hst
    cases (exec_canDispatch_of_unmatched
      (s := { s with clock := clock, resMain := s.resMain ++ [{ b := false }] }) hp hf hm unmatched).symm.trans htu
    exact ⟨fun _ => ⟨rfl, rfl, rfl, rfl⟩, fun e he h => absurd ⟨e, he, h⟩ hmatch, fun _ => rfl⟩

end Sys2Proof.Machine
end

section
/-! The target mapping of a gauge (42_stepper.md R244): the clamp case by case, and TargetOf on each of its three pieces. -/

namespace Sys2Proof.Machine

/-! ## The clamp (00_scope.md R9) -/

theorem clampInt_of_le {p lo hi : Int} (range : lo ≤ hi) (h : p ≤ lo) : clampInt p lo hi = lo := by
  unfold clampInt
  split <;> omega

theorem clampInt_of_ge {p lo hi : Int} (range : lo ≤ hi) (h : hi ≤ p) : clampInt p lo hi = hi := by
  unfold clampInt
  split <;> omega

theorem clampInt_of_mem {p lo hi : Int} (hlo : lo ≤ p) (hhi : p ≤ hi) : clampInt p lo hi = p := by
  rw [clampInt, if_neg (not_lt.mpr hlo), if_neg (not_lt.mpr hhi)]

/-- Clamping is the lattice expression, so it inherits monotonicity from `max` and `min`. -/
theorem clampInt_eq_max_min {p lo hi : Int} (range : lo ≤ hi) : clampInt p lo hi = max lo (min p hi) := by
  rcases le_total p lo with below | hlo
  · rw [clampInt_of_le range below, min_eq_left (below.trans range), max_eq_left below]
  · rcases le_total p hi with hhi | above
    · rw [clampInt_of_mem hlo hhi, min_eq_left hhi, max_eq_right hlo]
    · rw [clampInt_of_ge range above, min_eq_right above, max_eq_right range]

theorem clampInt_mono {p q lo hi : Int} (range : lo ≤ hi) (h : p ≤ q) : clampInt p lo hi ≤ clampInt q lo hi := by
  rw [clampInt_eq_max_min range, clampInt_eq_max_min range]
  exact max_le_max_left lo (min_le_min_right hi h)

/-! ## TargetOf (42_stepper.md R244) -/

theorem targetOf_of_nonpos (gc : GaugeCfg) {p : Int} (h : p ≤ 0) : gc.targetOf p = 0 := by
  rw [GaugeCfg.targetOf, clampInt_of_le (by decide) h]
  simp

theorem targetOf_of_ge (gc : GaugeCfg) {p : Int} (h : 100 ≤ p) : gc.targetOf p = gc.fullScale := by
  rw [GaugeCfg.targetOf, clampInt_of_ge (by decide) h]
  omega

/-- Inside 0..100 the clamp does nothing, and the division of integers is the floor division of naturals. -/
theorem targetOf_natCast (gc : GaugeCfg) {n : Nat} (h : n ≤ 100) : gc.targetOf n = n * gc.fullScale / 100 := by
  rw [GaugeCfg.targetOf, clampInt_of_mem (Int.natCast_nonneg n) (by exact_mod_cast h)]
  exact_mod_cast Int.toNat_natCast (n * gc.fullScale / 100)

theorem targetOf_mono (gc : GaugeCfg) {p q : Int} (h : p ≤ q) : gc.targetOf p ≤ gc.targetOf q := by
  have scaled : clampInt p 0 100 * gc.fullScale ≤ clampInt q 0 100 * gc.fullScale :=
    Int.mul_le_mul_of_nonneg_right (clampInt_mono (by decide) h) (Int.natCast_nonneg _)
  exact Int.toNat_le_toNat (Int.ediv_le_ediv (by decide) scaled)

/-- Settles O49: the bound, monotonicity, the two clamped ends and the floor between them. -/
theorem targetMapping : Obligations.TargetMapping := fun gc =>
  ⟨targetOf_le gc, fun _ _ => targetOf_mono gc, fun _ => targetOf_of_nonpos gc, fun _ => targetOf_of_ge gc,
    fun _ => targetOf_natCast gc⟩

end Sys2Proof.Machine
end

section
/-! The writers of CLOCK, MODE, IRQ_EN and CFG_DONE (43_system.md R296, 10_state.md R32, R34, R35). -/

namespace Sys2Proof.Machine

/-! ## The control part of the state -/

/-- The clock, the mode and the two control flags (10_state.md R32, R34 to R36). -/
def State.controlPart (s : State) : Word × Mode × Bool × Bool := (s.clock, s.mode, s.irqEn, s.cfgDone)

theorem controlPart_eq_iff {s t : State} : t.controlPart = s.controlPart ↔
    t.clock = s.clock ∧ t.mode = s.mode ∧ t.irqEn = s.irqEn ∧ t.cfgDone = s.cfgDone := by
  simp only [State.controlPart, Prod.mk.injEq]

theorem deliver_controlPart (s : State) (r : Result) : (s.deliver r).controlPart = s.controlPart := by
  unfold State.deliver
  split <;> rfl

theorem enqueue_controlPart (s : State) (f : Frame) : (enqueue s f).1.controlPart = s.controlPart := by
  rcases enqueue_cases s f with ⟨-, e⟩ | ⟨-, e⟩
  · rw [e]
  · rw [e]; rfl

theorem dequeue_controlPart (s : State) : (dequeue s).1.controlPart = s.controlPart := by
  rcases dequeue_cases s with ⟨-, e⟩ | ⟨-, e⟩
  · rw [e]
  · rw [e]; rfl

theorem dispatchFrame_controlPart (s : State) (f : Frame) : (dispatchFrame s f).1.controlPart = s.controlPart := by
  unfold dispatchFrame
  split <;> rfl

/-! ## What the guards of the writers say -/

/-- CLK.TICK is admitted in RUN only (60_exceptions.md R325). -/
theorem mode_run_of_admits_clkTick {s : State} (h : s.admits .clkTick = true) : s.mode = .run := by
  obtain ⟨-, -, gate⟩ := (admits_iff s .clkTick).mp h
  exact beq_iff_eq.mp gate

/-- CLK.INIT passes its check in BOOT only (43_system.md R291). -/
theorem mode_boot_of_clkInit_check {s : State} (h : firstFault [⟨s.mode != .boot, .clockAlreadyInit⟩] = none) :
    s.mode = .boot := by
  simpa using firstFault_eq_none.mp h

/-! ## Each control field changes only by its writer -/

/-- From `s` to `t` the command `i` changes a control field only where it is that field's writer, or takes a fault. -/
structure ControlWrite (i : Instr) (s t : State) : Prop where
  clock : t.clock = s.clock ∨ (i = .clkTick ∧ s.mode = .run ∧ t.clock = s.clock + 1)
  mode : t.mode = s.mode ∨ t.mode = .faulted ∨
    (s.mode = .boot ∧ ((i = .clkInit true ∧ t.mode = .run) ∨ (i = .clkInit false ∧ t.mode = .halted)))
  irqEn : t.irqEn = s.irqEn ∨ (i = .irqEnable ∧ t.irqEn = true) ∨ (i = .irqDisable ∧ t.irqEn = false)
  cfgDone : t.cfgDone = s.cfgDone ∨ ((∃ es, i = .canConfig es) ∧ t.cfgDone = true)

namespace ControlWrite

theorem of_controlPart {i : Instr} {s t : State} (h : t.controlPart = s.controlPart) : ControlWrite i s t := by
  obtain ⟨hclock, hmode, hirq, hcfg⟩ := controlPart_eq_iff.mp h
  exact ⟨.inl hclock, .inl hmode, .inl hirq, .inl hcfg⟩

theorem takeFault (i : Instr) (s : State) (code : FaultCode) (op : BitVec 6) :
    ControlWrite i s (s.takeFault code op) :=
  ⟨.inl rfl, .inr (.inl rfl), .inl rfl, .inl rfl⟩

theorem deliver {i : Instr} {s u : State} (h : ControlWrite i s u) (r : Result) : ControlWrite i s (u.deliver r) := by
  obtain ⟨hclock, hmode, hirq, hcfg⟩ := controlPart_eq_iff.mp (deliver_controlPart u r)
  constructor
  · rw [hclock]; exact h.clock
  · rw [hmode]; exact h.mode
  · rw [hirq]; exact h.irqEn
  · rw [hcfg]; exact h.cfgDone

/-- The writers are to be checked on effects only, and there the command is admitted and no check applies. -/
theorem of_command {i : Instr} {op : Opcode} {s t : State} {cs : List Check} {e : State × Result}
    (h : command op s cs e = .next t)
    (effect : s.admits op = true → firstFault cs = none → ControlWrite i s e.1) : ControlWrite i s t := by
  rcases command_cases h with ⟨-, rfl⟩ | ⟨-, -, rfl⟩ | ⟨-, code, -, rfl⟩ | ⟨admitted, passed, rfl⟩
  · exact of_controlPart rfl
  · exact takeFault i s _ _
  · exact takeFault i s _ _
  · exact (effect admitted passed).deliver e.2

/-- A command whose effect leaves the control part alone writes no control field but by a fault. -/
theorem of_command_kept {i : Instr} {op : Opcode} {s t : State} {cs : List Check} {e : State × Result}
    (h : command op s cs e = .next t) (kept : e.1.controlPart = s.controlPart) : ControlWrite i s t :=
  of_command h fun _ _ => of_controlPart kept

end ControlWrite

/-- Every command respects the writers: five of the 24 effects write a control field, each its own. -/
theorem exec_controlWrite {i : Instr} {s t : State} (h : exec i s = .next t) : ControlWrite i s t := by
  cases i with
  | clkTick =>
    rw [exec_clkTick_eq] at h
    exact .of_command h fun admitted _ =>
      ⟨.inr ⟨rfl, mode_run_of_admits_clkTick admitted, rfl⟩, .inl rfl, .inl rfl, .inl rfl⟩
  | clkInit ok =>
    rw [exec_clkInit_eq] at h
    refine .of_command h fun _ passed =>
      ⟨.inl rfl, .inr (.inr ⟨mode_boot_of_clkInit_check passed, ?_⟩), .inl rfl, .inl rfl⟩
    cases ok with
    | true => exact .inl ⟨rfl, rfl⟩
    | false => exact .inr ⟨rfl, rfl⟩
  | irqEnable =>
    rw [exec_irqEnable_eq] at h
    exact .of_command h fun _ _ => ⟨.inl rfl, .inl rfl, .inr (.inl ⟨rfl, rfl⟩), .inl rfl⟩
  | irqDisable =>
    rw [exec_irqDisable_eq] at h
    exact .of_command h fun _ _ => ⟨.inl rfl, .inl rfl, .inr (.inr ⟨rfl, rfl⟩), .inl rfl⟩
  | canConfig entries =>
    rw [exec_canConfig_eq] at h
    exact .of_command h fun _ _ => ⟨.inl rfl, .inl rfl, .inl rfl, .inr ⟨⟨entries, rfl⟩, rfl⟩⟩
  | fifoPop => exact .of_command_kept (cs := []) h (dequeue_controlPart s)
  | fifoPush f | canRx f => exact .of_command_kept h (enqueue_controlPart s f)
  | canDispatch f => exact .of_command_kept h (dispatchFrame_controlPart s f)
  | errDrain =>
    refine .of_command_kept (cs := []) h ?_
    dsimp only
    split <;> rfl
  | gaugeTrack g =>
    refine .of_command_kept h ?_
    split <;> rfl
  | fifoEmpty | fifoFull | fifoCount | clkRead | canTxdone slot | canBuserr code => exact .of_command_kept (cs := []) h rfl
  | fifoFlush | canTransmit f | telemRead sig | gaugeZero g | gaugeSettgt g p | gaugeStep g | gaugeRead g =>
    exact .of_command_kept h rfl

/-- Settles O57: the four encodings of MODE, and the writers of each control field under every command. -/
theorem controlStateWriters : Obligations.ControlStateWriters := by
  refine ⟨⟨rfl, rfl, rfl, rfl⟩, fun i s t h => ?_⟩
  obtain ⟨clock, mode, irqEn, cfgDone⟩ := exec_controlWrite h
  exact ⟨clock, mode, irqEn, cfgDone⟩

end Sys2Proof.Machine
end

section
/-! Faults and acceptance: what a fault changes and which codes it can have, and the commands that are not accepted
(60_exceptions.md R321, R322, R324, R325, R332). -/

namespace Sys2Proof.Machine

/-! ## The context that an opcode names (30_encoding.md R111, 60_exceptions.md R331) -/

theorem context_eq_irq_iff (op : Opcode) : op.context = .irq ↔ op.code.getLsbD 5 = true := by
  simp [Opcode.context, opContext]

theorem context_eq_main_iff (op : Opcode) : op.context = .main ↔ op.code.getLsbD 5 = false := by
  simp [Opcode.context, opContext]

/-- The commands of the MAIN context are never gated (60_exceptions.md R325). -/
theorem gateOf_of_context_main {op : Opcode} (h : op.context = .main) : gateOf op = .always := by
  revert h
  cases op <;> decide

/-- Only commands of the IRQ context are gated (60_exceptions.md R325). -/
theorem context_irq_of_gated {op : Opcode} (h : gateOf op ≠ .always) : op.context = .irq := by
  revert h
  cases op <;> decide

/-! ## Commands that are not handled -/

/-- In HALTED and FAULTED no command is accepted (60_exceptions.md R324 point 1). -/
theorem exec_of_not_accepting (i : Instr) {s : State} (hm : s.mode.accepting = false) : exec i s = .next s := by
  obtain ⟨cs, e, hexec, -⟩ := exec_eq_command i s
  simp [hexec, command, hm]

/-- The check of the context comes before the gate and the command's own checks (60_exceptions.md R324 point 3). -/
theorem exec_of_context_ne_port (i : Instr) {s : State} (hm : s.mode.accepting = true)
    (hp : i.opcode.context ≠ s.port) : exec i s = .next (s.takeFault .wrongContext i.opcode.code) := by
  obtain ⟨cs, e, hexec, -⟩ := exec_eq_command i s
  simp [hexec, command, hm, hp]

/-- A gated-off command on the IRQ port is not accepted, in any mode (60_exceptions.md R325). -/
theorem exec_of_gate_closed (i : Instr) {s : State} (hp : s.port = .irq) (hg : s.gateOpen i.opcode = false) :
    exec i s = .next s := by
  have gated : gateOf i.opcode ≠ .always := by
    intro always
    simp [State.gateOpen, always] at hg
  obtain ⟨cs, e, hexec, -⟩ := exec_eq_command i s
  simp [hexec, command, context_irq_of_gated gated, hp, hg]

/-- A CAN-side command is not accepted while IRQ_EN = 0 (60_exceptions.md R325). -/
theorem exec_of_irq_disabled {i : Instr} {s : State} (hgate : gateOf i.opcode = .irqEnabled) (hp : s.port = .irq)
    (hi : s.irqEn = false) : exec i s = .next s :=
  exec_of_gate_closed i hp (by simp [State.gateOpen, hgate, hi])

/-- A command of the MAIN context on the MAIN port always leaves a trace: its result, or its fault. -/
theorem exec_main_ne_self {i : Instr} {s : State} (hm : s.mode.accepting = true) (hp : s.port = .main)
    (hc : i.opcode.context = .main) : exec i s ≠ .next s := by
  intro unchanged
  have admitted : s.admits i.opcode = true :=
    (admits_iff s i.opcode).mpr ⟨hm, hp.trans hc.symm, by simp [State.gateOpen, gateOf_of_context_main hc]⟩
  rcases exec_results unchanged with ⟨refused | faulted, -⟩ | ⟨-, -, u, r, hu, -, hs⟩
  · exact absurd (admitted.symm.trans refused) (by decide)
  · rw [faulted] at hm
    cases hm
  · obtain ⟨delivered, -⟩ := (hu.deliver_own_port r).1 hp
    rw [← hs] at delivered
    simp at delivered

/-! ## The faults of a command -/

theorem wrongContext_mem_faultsOf (op : Opcode) : .wrongContext ∈ faultsOf op := by
  cases op <;> decide

/-- Every command is one use of the shared handling in which only a check can fault: its checks raise faults that R321 lists
for the command, and its effect raises none. -/
theorem exec_faults_by_checks (i : Instr) (s : State) :
    ∃ cs e, exec i s = command i.opcode s cs e ∧ (∀ c ∈ cs, c.code ∈ faultsOf i.opcode) ∧
      (e.1.mode = .faulted → s.mode = .faulted) := by
  cases i with
  | fifoPop => exact ⟨[], _, exec_fifoPop_eq s, by simp, (dequeue_delivers s).1.mode⟩
  | errDrain =>
    refine ⟨[], _, exec_errDrain_eq s, by simp, ?_⟩
    dsimp only
    split <;> exact id
  | fifoEmpty | fifoFull | fifoCount | clkRead | irqDisable | canTxdone slot | canBuserr code | clkTick =>
    exact ⟨[], _, rfl, by simp, id⟩
  | fifoPush f =>
    exact ⟨_, _, exec_fifoPush_eq f s, by simp [Instr.opcode, faultsOf, needsFrame],
      (enqueue_delivers (.inl rfl) s f).1.mode⟩
  | canRx f =>
    exact ⟨_, _, exec_canRx_eq f s, by simp [Instr.opcode, faultsOf], (enqueue_delivers (.inr rfl) s f).1.mode⟩
  | canDispatch f =>
    exact ⟨_, _, exec_canDispatch_eq f s, by simp [Instr.opcode, faultsOf, needsFrame, needsRun],
      (dispatchFrame_delivers s f).1.mode⟩
  | gaugeTrack g =>
    refine ⟨_, _, exec_gaugeTrack_eq g s, by simp [Instr.opcode, faultsOf, needsGauge, needsReady], ?_⟩
    split <;> exact id
  | clkInit ok =>
    have mode : (if ok then Mode.run else Mode.halted) ≠ .faulted := by cases ok <;> decide
    exact ⟨_, _, exec_clkInit_eq ok s, by simp [Instr.opcode, faultsOf], (absurd · mode)⟩
  | fifoFlush | canConfig entries | canTransmit f | telemRead sig | irqEnable =>
    exact ⟨_, _, rfl, by simp [Instr.opcode, faultsOf, needsMask, needsFrame, needsRun], id⟩
  | gaugeZero g | gaugeSettgt g p | gaugeStep g | gaugeRead g =>
    exact ⟨_, _, rfl, by simp [Instr.opcode, faultsOf, needsGauge, needsRun, needsReady], id⟩

/-- A command that brings the block into FAULTED did nothing but take one of the faults listed for it. -/
theorem exec_takes_listed_fault {i : Instr} {s t : State} (h : exec i s = .next t) (hs : s.mode ≠ .faulted)
    (ht : t.mode = .faulted) : ∃ code ∈ faultsOf i.opcode, t = s.takeFault code i.opcode.code := by
  obtain ⟨cs, e, hexec, listed, effect⟩ := exec_faults_by_checks i s
  rw [hexec] at h
  rcases command_cases h with ⟨-, rfl⟩ | ⟨-, -, rfl⟩ | ⟨-, code, raised, rfl⟩ | ⟨-, -, rfl⟩
  · exact absurd ht hs
  · exact ⟨.wrongContext, wrongContext_mem_faultsOf _, rfl⟩
  · obtain ⟨c, hc, -, rfl⟩ := firstFault_mem raised
    exact ⟨c.code, listed c hc, rfl⟩
  · exact absurd (effect ((deliver_mode e.1 e.2).symm.trans ht)) hs

/-- Settles O17: a command faults by `takeFault` alone, with a listed code, and FAULTED accepts nothing on either port. -/
theorem faultChangesOnlyTheRecord : Obligations.FaultChangesOnlyTheRecord := by
  refine ⟨fun i s t h hs ht => ?_, rfl, rfl, rfl, rfl, rfl, rfl, rfl, rfl, rfl, rfl, rfl, rfl, rfl, rfl, rfl, rfl⟩
  obtain ⟨code, listed, rfl⟩ := exec_takes_listed_fault h hs ht
  exact ⟨rfl, listed, fun j p => exec_of_not_accepting j rfl⟩

/-- Settles O15: OP[5] decides the context, so either mismatch is a context other than the port's. -/
theorem wrongContextFaults : Obligations.WrongContextFaults := by
  rintro i s hm (⟨hp, hop⟩ | ⟨hp, hop⟩)
  · have hc := (context_eq_irq_iff i.opcode).mpr hop
    exact exec_of_context_ne_port i hm (by simp [hc, hp])
  · have hc := (context_eq_main_iff i.opcode).mpr hop
    exact exec_of_context_ne_port i hm (by simp [hc, hp])

/-- Settles O16: a closed gate lets nothing of a command through; a MAIN command has no gate, so it delivers or faults. -/
theorem gatedCommandsNotAccepted : Obligations.GatedCommandsNotAccepted := by
  refine ⟨fun f s hp hi => ⟨?_, ?_⟩, fun slot code s hp hi => ⟨?_, ?_⟩, fun s hp hrun => ?_,
    fun i s hm hp hc => exec_main_ne_self hm hp hc⟩
  · exact exec_of_irq_disabled rfl hp hi
  · exact exec_of_irq_disabled rfl hp hi
  · exact exec_of_irq_disabled rfl hp hi
  · exact exec_of_irq_disabled rfl hp hi
  · have closed : s.gateOpen .clkTick = false := by simpa [State.gateOpen, gateOf] using hrun
    exact exec_of_gate_closed .clkTick hp closed

end Sys2Proof.Machine
end


section
/-! Reset: the step that takes a reset event, and the values it leaves (70_reset_and_hazards.md R360 to R362). -/

namespace Sys2Proof.Machine

/-- On a configuration that the model runs, a step with a reset next resets the block, whatever its mode
(70_reset_and_hazards.md R360). -/
theorem step_of_reset {s : State} {rest : List EnvEvent} (hc : s.cfg.admitted = true) (he : s.env = .reset :: rest) :
    step s = .next (s.afterReset rest) := by
  have fetched : fetch s = .done (.next (s.afterReset rest)) := by simp [fetch, hc, he]
  rw [step, fetched]

/-- Settles O10: the step is the reset, and the state after it holds each value that R361 lists. -/
theorem resetValues : Obligations.ResetValues := by
  intro s rest hc he
  calc
    step s = .next (s.afterReset rest) := step_of_reset hc he
    _ = _ := rfl

end Sys2Proof.Machine
end

section
/-! Decoding and encoding are inverse (30_encoding.md R110 to R117, R129): a row is a criterion on each field of the word, and
each side-band reader undoes its writer. -/

namespace Sys2Proof

/-! ## A row as a criterion on the fields (30_encoding.md R114) -/

/-- The bits of IMM16 that a row of the opcode fixes to 0 (R113). -/
def reservedImm : Opcode → Half
  | .gaugeSettgt | .canConfig | .telemRead => 0
  | .clkInit => 0xFFFE
  | .canTxdone => 0xFFE0
  | .fifoPop | .fifoEmpty | .fifoFull | .fifoFlush | .fifoCount | .canDispatch | .canTransmit | .errDrain => 0xFFFF
  | .gaugeZero | .gaugeStep | .gaugeTrack | .gaugeRead | .clkRead | .irqEnable | .irqDisable => 0xFFFF
  | .fifoPush | .canRx | .canBuserr | .clkTick => 0xFFFF

/-- The bits of G that a row of the opcode fixes to 0: all of them where the command uses no gauge index (R112). -/
def reservedG (op : Opcode) : BitVec 4 := if Machine.usesGauge op then 0 else BitVec.allOnes 4

/-- Beside OP a row's mask covers RSV0, RSV1 and the reserved bits of G and IMM16. -/
theorem row_masks : ∀ r ∈ rows, cmdRsv0 r.mask = BitVec.allOnes 2 ∧ cmdRsv1 r.mask = BitVec.allOnes 4 ∧
    cmdG r.mask = reservedG r.op ∧ cmdImm r.mask = reservedImm r.op := by
  decide

/-- Outside OP a row's pattern is 0. -/
theorem row_patterns : ∀ r ∈ rows,
    cmdRsv0 r.pattern = 0 ∧ cmdRsv1 r.pattern = 0 ∧ cmdG r.pattern = 0 ∧ cmdImm r.pattern = 0 := by
  decide

/-- Every opcode has a row. -/
theorem exists_row (op : Opcode) : ∃ r ∈ rows, r.op = op := by
  cases op <;> decide

/-- The high bits of a value are 0 exactly if it fits the low ones. -/
theorem and_high_eq_zero_iff {high low : Nat} (x : BitVec (high + low)) :
    x &&& (BitVec.allOnes high ++ (0 : BitVec low)) = 0 ↔ x.toNat < 2 ^ low := by
  have parts : x = x.extractLsb' low high ++ x.extractLsb' 0 low := by
    rw [BitVec.extractLsb'_append_extractLsb'_eq_extractLsb' (by rw [Nat.zero_add])]
    exact BitVec.extractLsb'_eq_self.symm
  have zero : (0 : BitVec (high + low)) = (0 : BitVec high) ++ (0 : BitVec low) := BitVec.zero_append_zero.symm
  have split : x &&& (BitVec.allOnes high ++ (0 : BitVec low)) = 0 ↔ x.extractLsb' low high = 0 := by
    conv_lhs => rw [parts, zero]
    rw [append_and_append, append_eq_append, BitVec.and_allOnes]
    simp
  have small : x.toNat / 2 ^ low < 2 ^ high := by
    rw [Nat.div_lt_iff_lt_mul (Nat.two_pow_pos low), ← Nat.pow_add]
    exact x.isLt
  rw [split, ← BitVec.toNat_inj, BitVec.extractLsb'_toNat, Nat.shiftRight_eq_div_pow, Nat.mod_eq_of_lt small]
  exact Nat.div_eq_zero_iff_lt (Nat.two_pow_pos low)

/-- R113 admits exactly the values of IMM16 without a reserved bit. -/
theorem immAdmitted_iff (op : Opcode) (imm : Half) :
    Machine.immAdmitted op imm = true ↔ imm &&& reservedImm op = 0 := by
  cases op with
  | gaugeSettgt | canConfig | telemRead => exact iff_of_true rfl (BitVec.and_zero)
  | clkInit => exact decide_eq_true_iff.trans (and_high_eq_zero_iff (high := 15) (low := 1) imm).symm
  | canTxdone => exact decide_eq_true_iff.trans (and_high_eq_zero_iff (high := 11) (low := 5) imm).symm
  | fifoPop | fifoEmpty | fifoFull | fifoFlush | fifoCount | canDispatch | canTransmit | errDrain | gaugeZero | gaugeStep
  | gaugeTrack | gaugeRead | clkRead | irqEnable | irqDisable | fifoPush | canRx | canBuserr | clkTick =>
    exact beq_iff_eq.trans (by rw [show imm &&& reservedImm _ = imm from BitVec.and_allOnes])

/-- G is used, or its bits are 0. -/
theorem and_reservedG_eq_zero_iff (op : Opcode) (g : BitVec 4) :
    g &&& reservedG op = 0 ↔ Machine.usesGauge op = true ∨ g = 0 := by
  unfold reservedG
  split
  · next used => simp [used]
  · next unused => rw [BitVec.and_allOnes]; simp [unused]

/-- What a word needs to be a command of opcode `op`, field by field (R114). -/
structure WordOf (op : Opcode) (cmd : Word) : Prop where
  code : cmdOp cmd = op.code
  rsv0 : cmdRsv0 cmd = 0
  rsv1 : cmdRsv1 cmd = 0
  gauge : Machine.usesGauge op = true ∨ cmdG cmd = 0
  imm : Machine.immAdmitted op (cmdImm cmd) = true

/-- A row accepts the words of its opcode. -/
theorem accepts_iff_wordOf {r : Row} (hr : r ∈ rows) (cmd : Word) : r.accepts cmd = true ↔ WordOf r.op cmd := by
  obtain ⟨maskOp, patternOp⟩ := row_fixes_op r hr
  obtain ⟨mask0, mask1, maskG, maskImm⟩ := row_masks r hr
  obtain ⟨pattern0, pattern1, patternG, patternImm⟩ := row_patterns r hr
  rw [accepts_iff, maskOp, patternOp, mask0, mask1, maskG, maskImm, pattern0, pattern1, patternG, patternImm,
    BitVec.and_allOnes, BitVec.and_allOnes, BitVec.and_allOnes, and_reservedG_eq_zero_iff, ← immAdmitted_iff]
  exact ⟨fun ⟨imm, rsv1, gauge, rsv0, code⟩ => ⟨code, rsv0, rsv1, gauge, imm⟩,
    fun ⟨code, rsv0, rsv1, gauge, imm⟩ => ⟨imm, rsv1, gauge, rsv0, code⟩⟩

/-- A word is a command of `op` exactly if its fields are as R114 asks. -/
theorem decodeOpcode_eq_some_iff_wordOf {cmd : Word} {op : Opcode} : decodeOpcode cmd = some op ↔ WordOf op cmd := by
  rw [decodeOpcode_eq_some_iff]
  constructor
  · rintro ⟨r, hr, rfl, hacc⟩
    exact (accepts_iff_wordOf hr cmd).mp hacc
  · intro word
    obtain ⟨r, hr, rfl⟩ := exists_row op
    exact ⟨r, hr, rfl, (accepts_iff_wordOf hr cmd).mpr word⟩

/-- The OP values that no row lists are the reserved ones (R117). -/
theorem unlisted_code_iff : ∀ v : BitVec 6, (∀ r ∈ rows, r.op.code ≠ v) ↔
    v.toNat = 0 ∨ v.toNat = 6 ∨ v.toNat = 7 ∨ (0x0D ≤ v.toNat ∧ v.toNat ≤ 0x0F) ∨
      (0x15 ≤ v.toNat ∧ v.toNat ≤ 0x17) ∨ (0x1C ≤ v.toNat ∧ v.toNat ≤ 0x1F) ∨ 0x25 ≤ v.toNat := by
  decide

/-- Settles O4: the rows are the criterion on the fields, and every opcode has a row, so the unlisted OP values are those of
no row. -/
theorem reservedEncodings : Obligations.ReservedEncodings := by
  refine ⟨fun cmd op => ?criterion, fun v => ?unlisted⟩
  case criterion =>
    rw [decodeOpcode_eq_some_iff_wordOf]
    exact ⟨fun ⟨code, rsv0, rsv1, gauge, imm⟩ => ⟨code, rsv0, rsv1, gauge, imm⟩,
      fun ⟨code, rsv0, rsv1, gauge, imm⟩ => ⟨code, rsv0, rsv1, gauge, imm⟩⟩
  case unlisted =>
    rw [← unlisted_code_iff v]
    refine ⟨fun h r _ => h r.op, fun h op => ?_⟩
    obtain ⟨r, hr, rfl⟩ := exists_row op
    exact h r hr

/-! ## Decoding what was encoded (R129) -/

/-- The command word of a command satisfies its row (30_encoding.md R115). -/
theorem encodeCmd_accepted (i : Instr) : Laws.Row.Statement i := by
  cases i with
  | fifoPop => exact Laws.Row.fifoPop
  | fifoEmpty => exact Laws.Row.fifoEmpty
  | fifoFull => exact Laws.Row.fifoFull
  | fifoFlush => exact Laws.Row.fifoFlush
  | fifoCount => exact Laws.Row.fifoCount
  | canConfig entries => exact Laws.Row.canConfig entries
  | canDispatch f => exact Laws.Row.canDispatch f
  | canTransmit f => exact Laws.Row.canTransmit f
  | errDrain => exact Laws.Row.errDrain
  | telemRead sig => exact Laws.Row.telemRead sig
  | gaugeZero g => exact Laws.Row.gaugeZero g
  | gaugeSettgt g p => exact Laws.Row.gaugeSettgt g p
  | gaugeStep g => exact Laws.Row.gaugeStep g
  | gaugeTrack g => exact Laws.Row.gaugeTrack g
  | gaugeRead g => exact Laws.Row.gaugeRead g
  | clkInit ok => exact Laws.Row.clkInit ok
  | clkRead => exact Laws.Row.clkRead
  | irqEnable => exact Laws.Row.irqEnable
  | irqDisable => exact Laws.Row.irqDisable
  | fifoPush f => exact Laws.Row.fifoPush f
  | canRx f => exact Laws.Row.canRx f
  | canTxdone slot => exact Laws.Row.canTxdone slot
  | canBuserr code => exact Laws.Row.canBuserr code
  | clkTick => exact Laws.Row.clkTick

theorem decodeOpcode_encodeCmd (i : Instr) : decodeOpcode (encodeCmd i) = some i.opcode :=
  decodeOpcode_eq_some_iff.mpr (encodeCmd_accepted i)

@[simp] theorem cmdG_encodeCmd (i : Instr) : cmdG (encodeCmd i) = i.gField := cmdG_packCmd _ _ _

@[simp] theorem cmdImm_encodeCmd (i : Instr) : cmdImm (encodeCmd i) = i.immField := cmdImm_packCmd _ _ _

/-- The reader of the filter list takes back the entries that were written, if K fits IMM16. -/
theorem withFilters_flatMap {entries : List FilterEntry} (fits : entries.length < 65536) (i : List FilterEntry → Instr) :
    withFilters (BitVec.ofNat 16 entries.length) (entries.flatMap fun e => [e.ew0, e.ew1]) i = .ok (i entries) := by
  have count : entries.length = (BitVec.ofNat 16 entries.length).toNat := (Nat.mod_eq_of_lt fits).symm
  rw [withFilters, filterEntries_flatMap]
  exact if_pos count

/-- Each opcode's reader takes its operands back from the fields and the side band they were written to. -/
theorem assemble_encode {i : Instr} (hi : i.wellFormed = true) :
    assemble i.opcode (encodeCmd i) (encodeSide i) = .ok i := by
  cases i with
  | fifoPop | fifoEmpty | fifoFull | fifoFlush | fifoCount | errDrain | clkRead | irqEnable | irqDisable | clkTick => rfl
  | canDispatch f | canTransmit f | fifoPush f | canRx f | canBuserr code => rfl
  | canConfig entries =>
    rw [Instr.opcode, assemble, cmdImm_encodeCmd]
    exact withFilters_flatMap (decide_eq_true_iff.mp hi) .canConfig
  | telemRead sig | gaugeZero g | gaugeSettgt g p | gaugeStep g | gaugeTrack g | gaugeRead g =>
    simp [Instr.opcode, assemble, encodeSide, bare, Instr.gField, Instr.immField]
  | clkInit ok => cases ok <;> simp [Instr.opcode, assemble, encodeSide, bare, Instr.immField]
  | canTxdone slot =>
    simp [Instr.opcode, assemble, encodeSide, bare, Instr.immField]

/-- Settles O1: the word satisfies its own row, and that row's reader takes every operand back. -/
theorem decodeOfEncode : Obligations.DecodeOfEncode := by
  intro i hi
  rw [decode_of_decodeOpcode_some (decodeOpcode_encodeCmd i)]
  exact assemble_encode hi

/-! ## Encoding what was decoded (R116) -/

theorem bare_eq_ok {side : List Word} {i j : Instr} (h : bare side i = .ok j) : side = [] ∧ j = i := by
  cases side with
  | nil => exact ⟨rfl, by cases h; rfl⟩
  | cons w ws => cases h

theorem withFrame_eq_ok {side : List Word} {i : Frame → Instr} {j : Instr} (h : withFrame side i = .ok j) :
    ∃ f : Frame, side = f.words ∧ j = i f := by
  match side, h with
  | [w0, w1, w2, w3], h => exact ⟨⟨w0, w1, w2, w3⟩, rfl, by cases h; rfl⟩

theorem withCode_eq_ok {side : List Word} {i : Word → Instr} {j : Instr} (h : withCode side i = .ok j) :
    ∃ w, side = [w] ∧ j = i w := by
  match side, h with
  | [w], h => exact ⟨w, rfl, by cases h; rfl⟩

theorem withFilters_eq_ok {k : Half} {side : List Word} {i : List FilterEntry → Instr} {j : Instr}
    (h : withFilters k side i = .ok j) :
    ∃ es : List FilterEntry, side = es.flatMap (fun e => [e.ew0, e.ew1]) ∧ es.length = k.toNat ∧ j = i es := by
  unfold withFilters at h
  split at h
  · next es read =>
    split at h
    · next count => exact ⟨es, (flatMap_of_filterEntries side es read).symm, count, by cases h; rfl⟩
    · cases h
  · cases h

/-- The OK bit of an IMM16 below 2 is all of it. -/
theorem okBit_eq_imm {imm : Half} (h : imm.toNat < 2) : (if imm.getLsbD 0 then (1 : Half) else 0) = imm := by
  have value : imm = 0 ∨ imm = 1 := by simp only [← BitVec.toNat_inj]; simp; omega
  rcases value with rfl | rfl <;> decide

/-- The slot field of an IMM16 below 32 is all of it. -/
theorem slotField_eq_imm {imm : Half} (h : imm.toNat < 32) : (imm.setWidth 5).setWidth 16 = imm := by
  apply BitVec.eq_of_toNat_eq
  simp
  omega

/-- `i` is a well-formed command of opcode `op` with the operands that `cmd` and `side` hold. -/
structure ReadFrom (op : Opcode) (cmd : Word) (side : List Word) (i : Instr) : Prop where
  opcode : i.opcode = op
  gField : i.gField = cmdG cmd
  immField : i.immField = cmdImm cmd
  encodeSide : encodeSide i = side
  wellFormed : i.wellFormed = true

/-- What each opcode's reader reads from a word of that opcode has the operands of the word and the side band. -/
theorem readFrom_of_assemble {op : Opcode} {cmd : Word} {side : List Word} {i : Instr} (word : WordOf op cmd)
    (h : assemble op cmd side = .ok i) : ReadFrom op cmd side i := by
  obtain ⟨-, -, -, gauge, imm⟩ := word
  have unusedG (unused : Machine.usesGauge op = false) : 0 = cmdG cmd := (gauge.resolve_left (by simp [unused])).symm
  cases op with
  | fifoPop | fifoEmpty | fifoFull | fifoFlush | fifoCount | errDrain | clkRead | irqEnable | irqDisable | clkTick =>
    obtain ⟨rfl, rfl⟩ := bare_eq_ok h
    exact ⟨rfl, unusedG rfl, (beq_iff_eq.mp imm).symm, rfl, rfl⟩
  | gaugeZero | gaugeStep | gaugeTrack | gaugeRead =>
    obtain ⟨rfl, rfl⟩ := bare_eq_ok h
    exact ⟨rfl, rfl, (beq_iff_eq.mp imm).symm, rfl, rfl⟩
  | gaugeSettgt =>
    obtain ⟨rfl, rfl⟩ := bare_eq_ok h
    exact ⟨rfl, rfl, rfl, rfl, rfl⟩
  | telemRead =>
    obtain ⟨rfl, rfl⟩ := bare_eq_ok h
    exact ⟨rfl, unusedG rfl, rfl, rfl, rfl⟩
  | clkInit =>
    obtain ⟨rfl, rfl⟩ := bare_eq_ok h
    exact ⟨rfl, unusedG rfl, okBit_eq_imm (decide_eq_true_iff.mp imm), rfl, rfl⟩
  | canTxdone =>
    obtain ⟨rfl, rfl⟩ := bare_eq_ok h
    exact ⟨rfl, unusedG rfl, slotField_eq_imm (decide_eq_true_iff.mp imm), rfl, rfl⟩
  | fifoPush | canRx | canDispatch | canTransmit =>
    obtain ⟨f, rfl, rfl⟩ := withFrame_eq_ok h
    exact ⟨rfl, unusedG rfl, (beq_iff_eq.mp imm).symm, rfl, rfl⟩
  | canBuserr =>
    obtain ⟨code, rfl, rfl⟩ := withCode_eq_ok h
    exact ⟨rfl, unusedG rfl, (beq_iff_eq.mp imm).symm, rfl, rfl⟩
  | canConfig =>
    obtain ⟨entries, rfl, count, rfl⟩ := withFilters_eq_ok h
    refine ⟨rfl, unusedG rfl, ?_, rfl, decide_eq_true_iff.mpr (count ▸ (cmdImm cmd).isLt)⟩
    rw [Instr.immField, count, BitVec.ofNat_toNat, BitVec.setWidth_eq]

/-- Settles O2: the fields outside the operands are fixed by the row, and the operands are those that were read. -/
theorem encodeOfDecode : Obligations.EncodeOfDecode := by
  intro cmd side i h
  cases hop : decodeOpcode cmd with
  | none =>
    rw [decode_of_decodeOpcode_none hop] at h
    cases h
  | some op =>
    rw [decode_of_decodeOpcode_some hop] at h
    have word := decodeOpcode_eq_some_iff_wordOf.mp hop
    obtain ⟨opcode, gField, immField, sameSide, wellFormed⟩ := readFrom_of_assemble word h
    have sameCmd : encodeCmd i = cmd := by
      unfold encodeCmd
      apply cmd_ext
      · rw [cmdImm_packCmd, immField]
      · rw [cmdRsv1_packCmd, word.rsv1]
      · rw [cmdG_packCmd, gField]
      · rw [cmdRsv0_packCmd, word.rsv0]
      · rw [cmdOp_packCmd, opcode, word.code]
    exact ⟨by rw [encode, sameCmd, sameSide], wellFormed⟩

/-! ## The spec's own words (30_encoding.md R129, 95_test_vectors.md section 2.1) -/

/-- Settles O6: each of the eight words is decoded by evaluation. -/
theorem specWordsDecode : Obligations.SpecWordsDecode := by
  unfold Obligations.SpecWordsDecode
  decide

end Sys2Proof
end

section
/-! A step before its command: the offer that is decoded, refused or not accepted (20_memory.md R90, 60_exceptions.md R322,
R324), and the configurations on which there is one (00_scope.md R7, 41_can.md R206). -/

namespace Sys2Proof.Machine

/-! ## The step of an offer (60_exceptions.md R324 points 1 and 2) -/

/-- On a configuration that the model runs, an offer is fetched in the state that serves its port. -/
theorem fetch_of_offer {s : State} {p : Port} {cmd : Word} {side : List Word} {rest : List EnvEvent}
    (hc : s.cfg.admitted = true) (he : s.env = .offer p cmd side :: rest) :
    fetch s = fetchOffer cmd side (s.serving p rest) := by
  simp [fetch, hc, he]

/-- In a mode that accepts commands, an offer that decodes is fetched as its command. -/
theorem fetch_of_decode_ok {s : State} {p : Port} {cmd : Word} {side : List Word} {rest : List EnvEvent} {i : Instr}
    (hc : s.cfg.admitted = true) (hm : s.mode.accepting = true) (he : s.env = .offer p cmd side :: rest)
    (hd : decode cmd side = .ok i) : fetch s = .run i (s.serving p rest) := by
  simp [fetch_of_offer hc he, fetchOffer, hm, hd]

theorem step_of_fetch_run {s t : State} {i : Instr} (h : fetch s = .run i t) : step s = exec i t := by
  rw [step, h]

theorem step_of_fetch_done {s : State} {o : Host.Outcome State Fault Refusal} (h : fetch s = .done o) : step s = o := by
  rw [step, h]

/-- Settles O7: the fetch hands the decoded command on, in the state that serves the offer's port. -/
theorem stepRunsDecodedCommand : Obligations.StepRunsDecodedCommand := by
  intro s p cmd side rest i hc hm he hd
  exact step_of_fetch_run (fetch_of_decode_ok hc hm he hd)

/-- Settles O8: a word without a row stops at the decoder, which takes the fault for the port of the offer. -/
theorem reservedWordFaults : Obligations.ReservedWordFaults := by
  intro s p cmd side rest hc hm he hop
  have fetched : fetch s = .done (.next ((s.serving p rest).takeFault .illegalOp (cmdOp cmd))) := by
    simp [fetch_of_offer hc he, fetchOffer, hm, decode_of_decodeOpcode_none hop]
  exact step_of_fetch_done fetched

/-- Settles O11: the configuration is checked before the environment's list is looked at. -/
theorem badConfigurationRefused : Obligations.BadConfigurationRefused := by
  intro s hc
  have fetched : fetch s = .done (.refused .badConfiguration) := by simp [fetch, hc]
  exact step_of_fetch_done fetched

/-! ## HALTED and FAULTED (60_exceptions.md R322, R330) -/

/-- A step that is no reset, in a mode that accepts nothing, only takes the next event away. -/
theorem step_of_not_accepting {s : State} (hc : s.cfg.admitted = true) (hm : s.mode.accepting = false)
    (hr : s.noResetFor 1 = true) : ∃ p, step s = .next (s.serving p s.env.tail) := by
  match he : s.env with
  | [] =>
    have unchanged : s.serving s.port [] = s := by cases s; cases he; rfl
    refine ⟨s.port, step_of_fetch_done ?_⟩
    rw [List.tail_nil, unchanged]
    simp [fetch, hc, he]
  | .reset :: rest => simp [State.noResetFor, he] at hr
  | .offer p cmd side :: rest =>
    refine ⟨p, step_of_fetch_done ?_⟩
    simp [fetch_of_offer hc he, fetchOffer, hm]

theorem noResetFor_succ (s : State) (k : Nat) (p : Port) :
    s.noResetFor (k + 1) = (s.noResetFor 1 && (s.serving p s.env.tail).noResetFor k) := by
  cases he : s.env <;> simp [State.noResetFor, he]

/-- A run without a reset, from a mode that accepts nothing, only takes events away. -/
theorem stepN_of_not_accepting {k : Nat} {s : State} (hc : s.cfg.admitted = true) (hm : s.mode.accepting = false)
    (hr : s.noResetFor k = true) : ∃ p, stepN k s = some (s.serving p (s.env.drop k)) := by
  induction k generalizing s with
  | zero => exact ⟨s.port, rfl⟩
  | succ k ih =>
    have first : s.noResetFor 1 = true := by
      rw [noResetFor_succ s k s.port, Bool.and_eq_true] at hr
      exact hr.1
    obtain ⟨p, hstep⟩ := step_of_not_accepting hc hm first
    have later : (s.serving p s.env.tail).noResetFor k = true := by
      rw [noResetFor_succ s k p, Bool.and_eq_true] at hr
      exact hr.2
    obtain ⟨q, hrun⟩ := ih (s := s.serving p s.env.tail) hc hm later
    refine ⟨q, stepN_succ_iff.mpr ⟨_, hstep, ?_⟩⟩
    rw [hrun]
    simp [State.serving]

/-- Settles O9: neither mode accepts, so a run without a reset only takes events away. -/
theorem quietUntilReset : Obligations.QuietUntilReset := by
  intro k s t hc hmode hr
  have hm : s.mode.accepting = false := by rcases hmode with h | h <;> rw [h] <;> rfl
  obtain ⟨p, hrun⟩ := stepN_of_not_accepting hc hm hr
  refine ⟨⟨_, hrun⟩, fun h => ?_⟩
  obtain rfl : s.serving p (s.env.drop k) = t := Option.some.inj (hrun.symm.trans h)
  rfl

/-! ## Admitted configurations (00_scope.md R7, 41_can.md R206) -/

theorem fieldDesc_admitted_iff (n : Nat) (d : FieldDesc) : d.admitted n = true ↔
    d.sig < n ∧ (∀ off, d.kind = .byte off → off ≤ 7) ∧ (∀ idx, d.kind = .word idx → idx ≤ 3) ∧
      ∀ off pos, d.kind = .bit off pos → off ≤ 7 ∧ pos ≤ 7 := by
  unfold FieldDesc.admitted
  cases d.kind <;> simp

theorem selectorAdmitted_iff (sel : Option Selector) : selectorAdmitted sel = true ↔ ∀ x, sel = some x → x.off ≤ 7 := by
  cases sel <;> simp [selectorAdmitted]

/-- R206 (a) and (b) for one entry. -/
theorem decodeEntry_admitted_iff (n : Nat) (e : DecodeEntry) : e.admitted n = true ↔
    (e.ext = false → e.id.toNat < 2 ^ 11) ∧ e.fields ≠ [] ∧ (e.fields.map FieldDesc.sig).Nodup ∧
      (∀ x, e.sel = some x → x.off ≤ 7) ∧
      ∀ d ∈ e.fields, d.sig < n ∧ (∀ off, d.kind = .byte off → off ≤ 7) ∧ (∀ idx, d.kind = .word idx → idx ≤ 3) ∧
        ∀ off pos, d.kind = .bit off pos → off ≤ 7 ∧ pos ≤ 7 := by
  have identifier : (e.ext || decide (e.id.toNat < 2 ^ 11)) = true ↔ (e.ext = false → e.id.toNat < 2 ^ 11) := by
    cases e.ext <;> simp
  simp only [DecodeEntry.admitted, Bool.and_eq_true, identifier, selectorAdmitted_iff, List.all_eq_true,
    fieldDesc_admitted_iff, decide_eq_true_eq, Bool.not_eq_true', List.isEmpty_eq_false_iff]
  tauto

/-- R206 (c) for two entries. -/
theorem decodeEntry_apart_iff (a b : DecodeEntry) : a.apart b = true ↔
    (a.id = b.id ∧ a.ext = b.ext → ∃ x y, a.sel = some x ∧ b.sel = some y ∧ x.off = y.off ∧ x.val ≠ y.val) := by
  rw [← selectorsApart_iff]
  simp [DecodeEntry.apart, imp_iff_not_or]

/-- The default table of either admitted length has that length (42_stepper.md R253). -/
theorem length_defaultPhaseTable {n : Nat} (h : n = 4 ∨ n = 8) : (defaultPhaseTable n).length = n := by
  rcases h with rfl | rfl <;> rfl

/-- Only a table that the deployment gives can have the wrong length. -/
theorem phases_length_iff {gc : GaugeCfg} (h : gc.phaseLen = 4 ∨ gc.phaseLen = 8) :
    gc.phases.length = gc.phaseLen ↔ ∀ t, gc.phaseTable = some t → t.length = gc.phaseLen := by
  unfold GaugeCfg.phases
  cases gc.phaseTable <;> simp [length_defaultPhaseTable h]

/-- The bounds of R7 for one gauge. -/
theorem gaugeCfg_admitted_iff (n : Nat) (gc : GaugeCfg) : gc.admitted n = true ↔
    (gc.phaseLen = 4 ∨ gc.phaseLen = 8) ∧ (∀ t, gc.phaseTable = some t → t.length = gc.phaseLen) ∧
      1 ≤ gc.stepsPerRev ∧ gc.stepsPerRev ≤ 65535 ∧ gc.fullScale ≤ gc.stepsPerRev ∧ gc.stepDelay ≤ 65535 ∧
      gc.zeroRun ≤ 65535 ∧ ∀ x, gc.signal = some x → x < n := by
  have bounds : gc.admitted n = true ↔ (gc.phaseLen = 4 ∨ gc.phaseLen = 8) ∧ gc.phases.length = gc.phaseLen ∧
      1 ≤ gc.stepsPerRev ∧ gc.stepsPerRev ≤ 65535 ∧ gc.fullScale ≤ gc.stepsPerRev ∧ gc.stepDelay ≤ 65535 ∧
      gc.zeroRun ≤ 65535 ∧ ∀ x, gc.signal = some x → x < n := by
    unfold GaugeCfg.admitted
    cases gc.signal <;> simp [and_assoc]
  rw [bounds]
  exact and_congr_right fun hl => by rw [phases_length_iff hl]

/-- Settles O12: the Boolean check is the bounds and the three conditions, entry by entry and gauge by gauge. -/
theorem admittedConfigurations : Obligations.AdmittedConfigurations := by
  intro c
  unfold Config.admitted Config.numGauges
  simp only [Bool.and_eq_true, decide_eq_true_eq, List.all_eq_true, decodeEntry_admitted_iff,
    entriesApart_iff_pairwise, decodeEntry_apart_iff, gaugeCfg_admitted_iff, and_assoc]

end Sys2Proof.Machine
end

section
/-! What a command can do, said once: it is not accepted, it takes a fault, or it has one of the effects listed here and delivers
its result (60_exceptions.md R324). -/

namespace Sys2Proof.Machine

/-- Settles O19: every command is one use of the shared handling, which always answers. -/
theorem everyCommandAnswers : Obligations.EveryCommandAnswers := by
  intro i s
  obtain ⟨cs, e, hexec, -⟩ := exec_eq_command i s
  rw [hexec]
  exact command_answers i.opcode s cs e

/-! ## The effects -/

theorem accepting_of_boot {m : Mode} (h : m = .boot) : m.accepting = true := by rw [h]; rfl

theorem accepting_of_run {m : Mode} (h : m = .run) : m.accepting = true := by rw [h]; rfl

/-- The effects of the commands: from `s`, the command `i` whose checks all pass leads to `u` and delivers `r`. What the checks
and the gate say of `s` is kept where a claim about the effect rests on it. -/
inductive Effect (s : State) : Instr → State → Result → Prop where
  /-- A read, a command without effect, and what finds nothing to do: a pop from an empty FIFO, a push into a full one, a
  drain of a clear latch, a GAUGE.TRACK without a value. -/
  | keep {i : Instr} {r : Result} (notStep : ∀ g, i ≠ .gaugeStep g) : Effect s i s r
  | pop {r : Result} (notEmpty : s.count ≠ 0) : Effect s .fifoPop s.popHead r
  | push {i : Instr} {f : Frame} {r : Result} (pushes : i = .fifoPush f ∨ i = .canRx f) (good : f.wellFormed = true)
      (notFull : s.count ≠ s.cfg.fifoDepth) (unmasked : s.irqEn = true) : Effect s i (s.pushFrame f) r
  | flush {r : Result} (masked : s.irqEn = false) : Effect s .fifoFlush s.flushFifo r
  | config {entries : List FilterEntry} {r : Result} (good : badFilterList s entries = false) : Effect s (.canConfig entries)
      (State.emit { s with filt := installedFilters s.cfg.numFilters entries, cfgDone := true }
        (.cfgOut entries.length entries)) r
  | dispatch {f : Frame} {r : Result} (good : f.wellFormed = true) (run : s.mode = .run) :
      Effect s (.canDispatch f) (dispatchFrame s f).1 r
  | transmit {f : Frame} {r : Result} : Effect s (.canTransmit f) (s.emit (.txReq f.id f.ext f.dlc f.payload)) r
  | drain {r : Result} : Effect s .errDrain (State.emit { s with errFlag := false } (.diagErr s.errCode)) r
  | zero {g : BitVec 4} {r : Result} (inRange : g.toNat < s.cfg.numGauges) (run : s.mode = .run)
      (unzeroed : (s.gaugeAt g.toNat).zstate = .unzeroed) : Effect s (.gaugeZero g)
        (s.putGauge g.toNat (zeroGauge (s.cfg.gaugeCfg g.toNat) s.clock (s.gaugeAt g.toNat))) r
  | target {i : Instr} {g : BitVec 4} {p : Int} {r : Result} (targets : (∃ q, i = .gaugeSettgt g q) ∨ i = .gaugeTrack g)
      (inRange : g.toNat < s.cfg.numGauges) (ready : (s.gaugeAt g.toNat).zstate = .ready) : Effect s i
        (s.putGauge g.toNat (retarget (s.cfg.gaugeCfg g.toNat) p (s.gaugeAt g.toNat))) r
  | step {g : BitVec 4} (inRange : g.toNat < s.cfg.numGauges) (zeroed : (s.gaugeAt g.toNat).zstate ≠ .unzeroed) :
      Effect s (.gaugeStep g)
        (s.putGauge g.toNat (stepGauge (s.cfg.gaugeCfg g.toNat) s.clock (s.gaugeAt g.toNat)).1)
        { b := (stepGauge (s.cfg.gaugeCfg g.toNat) s.clock (s.gaugeAt g.toNat)).2 }
  | clkInit {ok : Bool} {r : Result} (boot : s.mode = .boot) :
      Effect s (.clkInit ok) { s with mode := if ok then .run else .halted } r
  | irqEnable {r : Result} (run : s.mode = .run) : Effect s .irqEnable { s with irqEn := true } r
  | irqDisable {r : Result} : Effect s .irqDisable { s with irqEn := false } r
  | buserr {code : Word} {r : Result} (unmasked : s.irqEn = true) :
      Effect s (.canBuserr code) { s with errFlag := true, errCode := code } r
  | tick {r : Result} (run : s.mode = .run) : Effect s .clkTick { s with clock := s.clock + 1 } r

/-- All a command can do to the block. -/
inductive CommandOutcome (i : Instr) (s : State) : State → Prop where
  | notAccepted : CommandOutcome i s s
  | fault (accepting : s.mode.accepting = true) (code : FaultCode) : CommandOutcome i s (s.takeFault code i.opcode.code)
  | completes {u : State} {r : Result} (admitted : s.admits i.opcode = true) (effect : Effect s i u r) :
      CommandOutcome i s (u.deliver r)

/-- A use of the shared handling has such an outcome if its effect is a listed one whenever its checks pass. -/
theorem CommandOutcome.of_command {i : Instr} {s t : State} {cs : List Check} {e : State × Result}
    (h : command i.opcode s cs e = .next t)
    (effect : s.admits i.opcode = true → (∀ c ∈ cs, c.applies = false) → Effect s i e.1 e.2) : CommandOutcome i s t := by
  rcases command_cases h with ⟨-, rfl⟩ | ⟨hm, -, rfl⟩ | ⟨admitted, code, -, rfl⟩ | ⟨admitted, passed, rfl⟩
  · exact .notAccepted
  · exact .fault hm .wrongContext
  · exact .fault ((admits_iff s _).mp admitted).1 code
  · exact .completes admitted (effect admitted (firstFault_eq_none.mp passed))

/-- A CAN-side command is admitted with IRQ_EN = 1 only (60_exceptions.md R325). -/
theorem irqEn_of_admits {s : State} {op : Opcode} (gated : gateOf op = .irqEnabled) (h : s.admits op = true) :
    s.irqEn = true := by
  obtain ⟨-, -, gate⟩ := (admits_iff s op).mp h
  simpa [State.gateOpen, gated] using gate

/-- Queueing a frame pushes it or finds the FIFO full. -/
theorem effect_enqueue {s : State} {i : Instr} {f : Frame} (pushes : i = .fifoPush f ∨ i = .canRx f)
    (good : f.wellFormed = true) (unmasked : s.irqEn = true) : Effect s i (enqueue s f).1 (enqueue s f).2 := by
  rcases enqueue_cases s f with ⟨-, e⟩ | ⟨notFull, e⟩ <;> rw [e]
  · exact .keep (by rcases pushes with rfl | rfl <;> simp)
  · exact .push pushes good notFull unmasked

/-- Every command has one of the listed outcomes. -/
theorem exec_outcome {i : Instr} {s t : State} (h : exec i s = .next t) : CommandOutcome i s t := by
  cases i with
  | fifoPop =>
    refine .of_command (i := .fifoPop) (cs := []) h fun _ _ => ?_
    rcases dequeue_cases s with ⟨-, e⟩ | ⟨notEmpty, e⟩ <;> rw [e]
    · exact .keep (by simp)
    · exact .pop notEmpty
  | fifoEmpty => exact .of_command (i := .fifoEmpty) (cs := []) h fun _ _ => .keep (by simp)
  | fifoFull => exact .of_command (i := .fifoFull) (cs := []) h fun _ _ => .keep (by simp)
  | fifoCount => exact .of_command (i := .fifoCount) (cs := []) h fun _ _ => .keep (by simp)
  | clkRead => exact .of_command (i := .clkRead) (cs := []) h fun _ _ => .keep (by simp)
  | canTxdone slot => exact .of_command (i := .canTxdone slot) (cs := []) h fun _ _ => .keep (by simp)
  | telemRead sig => exact .of_command (i := .telemRead sig) h fun _ _ => .keep (by simp)
  | gaugeRead g => exact .of_command (i := .gaugeRead g) h fun _ _ => .keep (by simp)
  | fifoFlush =>
    refine .of_command (i := .fifoFlush) h fun _ passed => .flush ?_
    simpa [needsMask] using passed
  | canConfig entries =>
    refine .of_command (i := .canConfig entries) h fun _ passed => .config ?_
    exact passed ⟨badFilterList s entries, .badFilterList⟩ (by simp)
  | canDispatch f =>
    refine .of_command (i := .canDispatch f) h fun _ passed => ?_
    simp only [needsFrame, needsRun, List.forall_mem_cons, Bool.not_eq_false', bne_eq_false_iff_eq] at passed
    obtain ⟨good, run, -⟩ := passed
    exact .dispatch good run
  | canTransmit f => exact .of_command (i := .canTransmit f) h fun _ _ => .transmit
  | errDrain =>
    refine .of_command (i := .errDrain) (cs := []) h fun _ _ => ?_
    dsimp only
    split
    · exact .drain
    · exact .keep (by simp)
  | gaugeZero g =>
    refine .of_command (i := .gaugeZero g) h fun _ passed => ?_
    simp only [needsGauge, needsRun, List.forall_mem_cons, decide_eq_false_iff_not, not_le,
      bne_eq_false_iff_eq] at passed
    obtain ⟨inRange, run, unzeroed, -⟩ := passed
    exact .zero inRange run unzeroed
  | gaugeSettgt g p =>
    refine .of_command (i := .gaugeSettgt g p) h fun _ passed => ?_
    simp only [needsGauge, needsReady, List.forall_mem_cons, decide_eq_false_iff_not, not_le,
      bne_eq_false_iff_eq] at passed
    obtain ⟨inRange, ready, -⟩ := passed
    exact .target (.inl ⟨p, rfl⟩) inRange ready
  | gaugeTrack g =>
    refine .of_command (i := .gaugeTrack g) h fun _ passed => ?_
    simp only [needsGauge, needsReady, List.forall_mem_cons, decide_eq_false_iff_not, not_le,
      bne_eq_false_iff_eq] at passed
    obtain ⟨inRange, ready, -⟩ := passed
    split
    · exact .keep (by simp)
    · exact .target (.inr rfl) inRange ready
  | gaugeStep g =>
    refine .of_command (i := .gaugeStep g) h fun _ passed => ?_
    simp only [needsGauge, needsRun, List.forall_mem_cons, decide_eq_false_iff_not, not_le,
      beq_eq_false_iff_ne] at passed
    obtain ⟨inRange, -, zeroed, -⟩ := passed
    exact .step inRange zeroed
  | clkInit ok =>
    refine .of_command (i := .clkInit ok) h fun _ passed => .clkInit ?_
    simpa using passed
  | irqEnable =>
    refine .of_command (i := .irqEnable) h fun _ passed => .irqEnable ?_
    simpa [needsRun] using passed
  | irqDisable => exact .of_command (i := .irqDisable) (cs := []) h fun _ _ => .irqDisable
  | fifoPush f =>
    refine .of_command (i := .fifoPush f) h fun admitted passed => ?_
    exact effect_enqueue (.inl rfl) (by simpa [needsFrame] using passed) (irqEn_of_admits rfl admitted)
  | canRx f =>
    refine .of_command (i := .canRx f) h fun admitted passed => ?_
    simp only [List.forall_mem_cons, Bool.or_eq_false_iff, Bool.not_eq_false'] at passed
    obtain ⟨⟨good, -⟩, -⟩ := passed
    exact effect_enqueue (.inr rfl) good (irqEn_of_admits rfl admitted)
  | canBuserr code =>
    exact .of_command (i := .canBuserr code) (cs := []) h fun admitted _ => .buserr (irqEn_of_admits rfl admitted)
  | clkTick =>
    exact .of_command (i := .clkTick) (cs := []) h fun admitted _ => .tick (mode_run_of_admits_clkTick admitted)

/-! ## What every effect leaves unchanged -/

/-- Dispatch writes the signals, through the entry that the search finds, and nothing else. -/
theorem dispatchFrame_eq (s : State) (f : Frame) : dispatchFrame s f =
    ({ s with sig := ((s.cfg.decodeTable.find? (entryMatch · f)).map fun e =>
        e.fields.foldl (writeField f s.clock) s.sig).getD s.sig },
      { b := (s.cfg.decodeTable.find? (entryMatch · f)).isSome }) := by
  unfold dispatchFrame
  cases s.cfg.decodeTable.find? (entryMatch · f) <;> rfl

/-- An effect delivers no record by itself, keeps the port and takes no fault. -/
theorem Effect.silent {s u : State} {i : Instr} {r : Result} (h : Effect s i u r) : SilentEffect s u := by
  cases h with
  | keep => exact .refl s
  | dispatch => exact (dispatchFrame_delivers s _).1
  | clkInit boot =>
    refine ⟨rfl, rfl, rfl, fun faulted => ?_⟩
    dsimp only at faulted
    split at faulted <;> cases faulted
  | pop | push | flush | config | transmit | drain | zero | target | step | irqEnable | irqDisable | buserr | tick =>
    exact ⟨rfl, rfl, rfl, id⟩

/-- An effect leaves the rest of the environment's events alone. -/
theorem Effect.env {s u : State} {i : Instr} {r : Result} (h : Effect s i u r) : u.env = s.env := by
  cases h with
  | dispatch => rw [dispatchFrame_eq]
  | keep | pop | push | flush | config | transmit | drain | zero | target | step | clkInit | irqEnable | irqDisable | buserr
  | tick => rfl

/-- So does every command. -/
theorem exec_env {i : Instr} {s t : State} (h : exec i s = .next t) : t.env = s.env := by
  cases exec_outcome h with
  | notAccepted => rfl
  | fault => rfl
  | completes _ effect => rw [deliver_env, effect.env]

/-- A command is of its port's context where it completes. -/
theorem port_of_admits {s : State} {op : Opcode} (h : s.admits op = true) : s.port = op.context :=
  ((admits_iff s op).mp h).2.1

end Sys2Proof.Machine
end

section
/-! The invariant of the block: it holds at reset, and every command and every step keeps it (10_state.md, 60_exceptions.md R322,
R330, 70_reset_and_hazards.md R361). -/

namespace Sys2Proof.Machine

/-! ## Reset -/

/-- R7 gives every gauge phases. -/
theorem phaseLen_pos {c : Config} (hc : c.admitted = true) {g : Nat} (hg : g < c.numGauges) :
    0 < (c.gaugeCfg g).phaseLen := by
  obtain ⟨phases, -, -⟩ := gaugeCfg_bounds (gaugeCfg_admitted hc hg)
  omega

/-- A gauge right after reset keeps its invariant: it is UNZEROED, with its coils off and a PHASE of every table. -/
theorem gaugeInv_zero {gc : GaugeCfg} (h : 0 < gc.phaseLen) : GaugeInv gc GaugeRec.zero :=
  ⟨h, .inl rfl, fun _ => rfl, nofun, nofun⟩

/-- The invariant holds after reset, on every admitted configuration and whatever the environment offers. -/
theorem resetWith_inv {c : Config} (hc : c.admitted = true) (env : List EnvEvent) :
    { State.resetWith c with env := env }.Inv := by
  obtain ⟨-, slots, head, tail, count⟩ := resetWith_fifoSound hc env
  refine ⟨hc, ⟨slots, head, tail, count, ?frames⟩, ⟨?filters, ?identifiers, ?zeroFilters⟩, ⟨?signals, ?zeroSignals⟩,
    ⟨?gauges, ?zeroGauges⟩, ⟨?notRunning, ?record, ?noFault⟩⟩
  case frames =>
    intro f hf
    obtain rfl := List.eq_of_mem_replicate hf
    decide
  case filters => exact List.length_replicate
  case identifiers =>
    intro r hr _
    obtain rfl := List.eq_of_mem_replicate hr
    decide
  case zeroFilters => exact fun _ r hr => List.eq_of_mem_replicate hr
  case signals => exact List.length_replicate
  case zeroSignals =>
    intro r hr
    obtain rfl := List.eq_of_mem_replicate hr
    decide
  case gauges => exact List.length_replicate
  case zeroGauges =>
    intro g hg
    have atReset : State.gaugeAt { State.resetWith c with env := env } g = GaugeRec.zero := by
      simp [State.gaugeAt, State.resetWith]
    rw [atReset]
    exact gaugeInv_zero (phaseLen_pos hc hg)
  case notRunning =>
    exact fun _ => ⟨rfl, rfl, flushFifo_count (State.resetWith c), rfl, fun _ => List.eq_of_mem_replicate,
      fun _ => List.eq_of_mem_replicate⟩
  case record => exact iff_of_true rfl nofun
  case noFault => exact fun _ => ⟨rfl, rfl⟩

/-- Settles O13: every bound holds of the zero records, and CFG-V is admitted. -/
theorem invariantAtReset : Obligations.InvariantAtReset :=
  ⟨fun _ hc => resetWith_inv hc [], resetWith_inv (c := Config.cfgV) (by decide) []⟩

/-! ## Filters and control state -/

/-- An entry that CAN.CONFIG accepts has an 11-bit identifier and mask where EXT = 0 (30_encoding.md R122). -/
theorem FilterEntry.standard_of_wellFormed {e : FilterEntry} (h : e.wellFormed = true) (hext : e.ext = false) :
    e.id.extractLsb' 11 18 = 0 ∧ e.mask.extractLsb' 11 18 = 0 := by
  obtain ⟨-, -, standard⟩ := e.wellFormed_iff.mp h
  exact standard hext

theorem badFilterList_eq_false_iff (s : State) (entries : List FilterEntry) : badFilterList s entries = false ↔
    entries.length ≤ s.cfg.numFilters ∧ ∀ e ∈ entries, e.wellFormed = true := by
  simp [badFilterList]

/-- Every installed filter is an entry of the list, or no filter. -/
theorem mem_installedFilters {m : Nat} {entries : List FilterEntry} {r : FilterRec} (h : r ∈ installedFilters m entries) :
    (∃ e ∈ entries, r = e.toRec) ∨ r = FilterRec.zero := by
  obtain ⟨k, -, rfl⟩ := List.mem_map.mp h
  cases hk : entries[k]? with
  | none => exact .inr rfl
  | some e => exact .inl ⟨e, List.mem_of_getElem? hk, rfl⟩

/-- Installing a good filter list keeps the invariant. -/
theorem config_inv {s : State} {entries : List FilterEntry} (h : s.Inv) (good : badFilterList s entries = false) :
    State.Inv { s with filt := installedFilters s.cfg.numFilters entries, cfgDone := true } := by
  obtain ⟨hc, hfifo, -, htelem, hgauges, hmode⟩ := h
  obtain ⟨-, wellFormed⟩ := (badFilterList_eq_false_iff s entries).mp good
  refine ⟨hc, hfifo, ⟨by simp [installedFilters], fun r hr hext => ?_, nofun⟩, htelem, hgauges, hmode⟩
  rcases mem_installedFilters hr with ⟨e, he, rfl⟩ | rfl
  · exact FilterEntry.standard_of_wellFormed (wellFormed e he) hext
  · decide

/-- In RUN the control fields that BOOT and HALTED pin are free. -/
theorem run_inv {s : State} (h : s.Inv) (run : s.mode = .run) (clock : Word) (irqEn errFlag : Bool) (errCode : Word) :
    State.Inv { s with clock := clock, irqEn := irqEn, errFlag := errFlag, errCode := errCode } := by
  obtain ⟨hc, hfifo, hfilter, htelem, hgauges, hmode, record⟩ := h
  exact ⟨hc, hfifo, hfilter, htelem, hgauges, fun stopped => by simp [run] at stopped, record⟩

/-- With IRQ_EN = 1 the time base runs, or the block is FAULTED. -/
theorem not_stopped_of_irqEn {s : State} (h : s.Inv) (unmasked : s.irqEn = true) :
    ¬(s.mode = .boot ∨ s.mode = .halted) := by
  obtain ⟨-, -, -, -, -, hmode, -⟩ := h
  intro stopped
  obtain ⟨-, masked, -⟩ := hmode stopped
  rw [unmasked] at masked
  cases masked

/-- Setting the error latch with IRQ_EN = 1 keeps the invariant. -/
theorem buserr_inv {s : State} (h : s.Inv) (unmasked : s.irqEn = true) (code : Word) :
    State.Inv { s with errFlag := true, errCode := code } := by
  have running := not_stopped_of_irqEn h unmasked
  obtain ⟨hc, hfifo, hfilter, htelem, hgauges, -, record⟩ := h
  exact ⟨hc, hfifo, hfilter, htelem, hgauges, fun stopped => absurd stopped running, record⟩

/-- Masking and draining clear what BOOT and HALTED ask to be clear, so they keep the invariant in every mode. -/
theorem clear_inv {s : State} (h : s.Inv) :
    State.Inv { s with irqEn := false } ∧ State.Inv { s with errFlag := false } := by
  obtain ⟨hc, hfifo, hfilter, htelem, hgauges, hmode, record⟩ := h
  constructor <;> refine ⟨hc, hfifo, hfilter, htelem, hgauges, fun stopped => ?_, record⟩
  · obtain ⟨clock, -, rest⟩ := hmode stopped
    exact ⟨clock, rfl, rest⟩
  · obtain ⟨clock, masked, empty, -, rest⟩ := hmode stopped
    exact ⟨clock, masked, empty, rfl, rest⟩

/-- Leaving BOOT for RUN or HALTED keeps the invariant. -/
theorem clkInit_inv {s : State} (h : s.Inv) (boot : s.mode = .boot) (ok : Bool) :
    State.Inv { s with mode := if ok then .run else .halted } := by
  obtain ⟨hc, hfifo, hfilter, htelem, hgauges, hmode, record, noFault⟩ := h
  have unfaulted : s.mode ≠ .faulted := by simp [boot]
  have stays : (if ok then Mode.run else Mode.halted) ≠ .faulted := by cases ok <;> decide
  exact ⟨hc, hfifo, hfilter, htelem, hgauges, fun _ => hmode (.inl boot),
    ⟨fun _ => stays, fun _ => record.mpr unfaulted⟩, fun _ => noFault unfaulted⟩

/-! ## Commands and steps -/

/-- Every effect keeps the invariant. -/
theorem Effect.inv {s u : State} {i : Instr} {r : Result} (effect : Effect s i u r) (h : s.Inv) : u.Inv := by
  have ⟨hc, _, _, _, ⟨_, gaugeInv⟩, _⟩ := h
  cases effect with
  | keep => exact h
  | pop notEmpty => exact popHead_inv h notEmpty
  | push _ good notFull unmasked => exact pushFrame_inv h good notFull unmasked
  | flush => exact flushFifo_inv h
  | config good => exact config_inv (s := s) h good
  | dispatch good run => exact dispatchFrame_inv h good run
  | transmit => exact h
  | drain => exact (clear_inv h).2
  | zero inRange run unzeroed =>
    exact putGauge_inv h (zeroGauge_inv (gaugeCfg_admitted hc inRange) (gaugeInv _ inRange) unzeroed) (.inr run)
  | target _ inRange ready =>
    exact putGauge_inv h (retarget_inv (gaugeCfg_admitted hc inRange) (gaugeInv _ inRange) ready) (.inl (by simp [ready]))
  | step inRange zeroed =>
    exact putGauge_inv h (stepGauge_inv (gaugeCfg_admitted hc inRange) (gaugeInv _ inRange) zeroed) (.inl zeroed)
  | clkInit boot => exact clkInit_inv h boot _
  | irqEnable run => exact run_inv h run s.clock true s.errFlag s.errCode
  | irqDisable => exact (clear_inv h).1
  | buserr unmasked => exact buserr_inv h unmasked _
  | tick run => exact run_inv h run (s.clock + 1) s.irqEn s.errFlag s.errCode

/-- Every command keeps the invariant; a fault that it takes is never the code NONE. -/
theorem exec_inv {i : Instr} {s t : State} (h : exec i s = .next t) (hinv : s.Inv) : t.Inv := by
  cases exec_outcome h with
  | notAccepted => exact hinv
  | completes _ effect => exact deliver_inv _ (effect.inv hinv)
  | fault accepting =>
    have notFaulted : s.mode ≠ .faulted := fun faulted => by simp [faulted, Mode.accepting] at accepting
    obtain ⟨code, listed, e⟩ := exec_takes_listed_fault h notFaulted rfl
    rw [e]
    exact takeFault_inv (fun none => (faultsOf_ne i.opcode).1 (none ▸ listed)) hinv

/-- Every step keeps the invariant, whatever event the environment offers. -/
theorem step_inv {s t : State} (h : step s = .next t) (hinv : s.Inv) : t.Inv := by
  obtain ⟨hc, ⟨-, -, rfl⟩ | ⟨rest, -, -, rfl⟩ | ⟨p, cmd, side, rest, -, offer⟩⟩ := step_cases h
  · exact hinv
  · exact resetWith_inv hc rest
  · have served := serving_inv p rest hinv
    rcases offer with ⟨-, -, rfl⟩ | ⟨-, -, -, rfl⟩ | ⟨-, i, -, -, hexec⟩
    · exact served
    · exact takeFault_inv (by decide) served
    · exact exec_inv hexec served

/-- Settles O14: a step waits, resets, refuses, faults or runs a command, and each keeps the invariant. -/
theorem everyStepKeepsInvariant : Obligations.EveryStepKeepsInvariant :=
  fun _ _ hinv h => step_inv h hinv

end Sys2Proof.Machine
end

section
/-! The gauges under commands and along runs: what one step does to one gauge, its lifecycle, its motion toward a held target and
the rate of its steps (42_stepper.md R240, R247, R252, R255). -/

namespace Sys2Proof.Machine

/-! ## One command and one gauge -/

/-- The command `i`, from its results, is a GAUGE.STEP of gauge `g` that returned B = 1. -/
def movedBy (g : Nat) (i : Instr) (results : List Result) : Bool :=
  match i with
  | .gaugeStep h => h.toNat == g && results.any Result.b
  | _ => false

theorem movedBy_nil (g : Nat) (i : Instr) : movedBy g i [] = false := by
  cases i <;> simp [movedBy]

theorem movedBy_of_not_step (g : Nat) {i : Instr} (h : ∀ k, i ≠ .gaugeStep k) (results : List Result) :
    movedBy g i results = false := by
  unfold movedBy
  split
  · next k => exact absurd rfl (h k)
  · rfl

/-- What a command does to the record `r` of gauge `g` with parameters `gc`, and whether it moves the gauge: only GAUGE.ZERO, a
new target and GAUGE.STEP of that gauge change the record, each in its own stage of the lifecycle (R240). -/
inductive GaugeCommand (g : Nat) (gc : GaugeCfg) (clock : Word) (r : GaugeRec) : Instr → GaugeRec → Bool → Prop where
  | other {i : Instr} : GaugeCommand g gc clock r i r false
  | zero {h : BitVec 4} (named : h.toNat = g) (unzeroed : r.zstate = .unzeroed) :
      GaugeCommand g gc clock r (.gaugeZero h) (zeroGauge gc clock r) false
  | target {i : Instr} (p : Int) (ready : r.zstate = .ready) : GaugeCommand g gc clock r i (retarget gc p r) false
  | step {h : BitVec 4} (named : h.toNat = g) (zeroed : r.zstate ≠ .unzeroed) :
      GaugeCommand g gc clock r (.gaugeStep h) (stepGauge gc clock r).1 (stepGauge gc clock r).2

/-- Reading the gauge that was written, where there is one. -/
theorem gaugeAt_putGauge_self {s : State} {g : Nat} (hg : g < s.gauge.length) (r : GaugeRec) :
    (s.putGauge g r).gaugeAt g = r := by
  rw [putGauge_gaugeAt, if_pos ⟨rfl, hg⟩]

theorem gaugeAt_putGauge_of_ne {s : State} {g h : Nat} (ne : h ≠ g) (r : GaugeRec) :
    (s.putGauge h r).gaugeAt g = s.gaugeAt g := by
  rw [putGauge_gaugeAt, if_neg fun same => ne same.1]

/-- An effect is such a command to every gauge there is. -/
theorem Effect.gaugeCommand {s u : State} {i : Instr} {r : Result} (effect : Effect s i u r) {g : Nat}
    (hg : g < s.gauge.length) :
    GaugeCommand g (s.cfg.gaugeCfg g) s.clock (s.gaugeAt g) i (u.gaugeAt g) (movedBy g i [r]) := by
  cases effect with
  | keep notStep => rw [movedBy_of_not_step g notStep]; exact .other
  | push pushes => rw [movedBy_of_not_step g (by rcases pushes with rfl | rfl <;> simp)]; exact .other
  | dispatch => rw [dispatchFrame_eq]; exact .other
  | pop | flush | config | transmit | drain | clkInit | irqEnable | irqDisable | buserr | tick => exact .other
  | @zero h _ _ _ unzeroed =>
    by_cases named : h.toNat = g
    · subst named
      rw [gaugeAt_putGauge_self hg]
      exact .zero rfl unzeroed
    · rw [gaugeAt_putGauge_of_ne named]
      exact .other
  | @target _ h p _ targets _ ready =>
    rw [movedBy_of_not_step g (by rcases targets with ⟨q, rfl⟩ | rfl <;> simp)]
    by_cases named : h.toNat = g
    · subst named
      rw [gaugeAt_putGauge_self hg]
      exact .target p ready
    · rw [gaugeAt_putGauge_of_ne named]
      exact .other
  | @step h _ zeroed =>
    by_cases named : h.toNat = g
    · subst named
      rw [gaugeAt_putGauge_self hg]
      simpa [movedBy] using GaugeCommand.step (g := h.toNat) rfl zeroed
    · have otherGauge : movedBy g (.gaugeStep h)
          [{ b := (stepGauge (s.cfg.gaugeCfg h.toNat) s.clock (s.gaugeAt h.toNat)).2 }] = false := by simp [movedBy, named]
      rw [gaugeAt_putGauge_of_ne named, otherGauge]
      exact .other

/-- Every command is such a command to every gauge there is. -/
theorem exec_gaugeCommand {i : Instr} {s t : State} (h : exec i s = .next t) {g : Nat} (hg : g < s.gauge.length) :
    GaugeCommand g (s.cfg.gaugeCfg g) s.clock (s.gaugeAt g) i (t.gaugeAt g) (movedBy g i (delivered s t)) := by
  cases exec_outcome h with
  | notAccepted => rw [delivered_self, movedBy_nil]; exact .other
  | fault => rw [delivered_takeFault, movedBy_nil, takeFault_gaugeAt]; exact .other
  | completes _ effect =>
    rw [effect.silent.delivered, deliver_gaugeAt]
    exact effect.gaugeCommand hg

/-- No command changes the number of gauges. -/
theorem exec_gauge_length {i : Instr} {s t : State} (h : exec i s = .next t) : t.gauge.length = s.gauge.length := by
  cases exec_outcome h with
  | notAccepted => rfl
  | fault => rfl
  | completes _ effect =>
    rw [deliver_gauge]
    cases effect with
    | dispatch => rw [dispatchFrame_eq]
    | zero | target | step => exact List.length_set
    | keep | pop | push | flush | config | transmit | drain | clkInit | irqEnable | irqDisable | buserr | tick => rfl

/-- Outside the array a gauge reads as the zero record (assumption log entry 7). -/
theorem gaugeAt_of_le {s : State} {g : Nat} (h : s.gauge.length ≤ g) : s.gaugeAt g = GaugeRec.zero := by
  simp [State.gaugeAt, h]

/-- To a gauge that is there a command is a `GaugeCommand`; of a gauge that is not, nothing is seen to change. -/
theorem exec_gaugeAt {i : Instr} {s t : State} (h : exec i s = .next t) (g : Nat) :
    t.gaugeAt g = s.gaugeAt g ∨
      ∃ moved, GaugeCommand g (s.cfg.gaugeCfg g) s.clock (s.gaugeAt g) i (t.gaugeAt g) moved := by
  by_cases hg : g < s.gauge.length
  · exact .inr ⟨_, exec_gaugeCommand h hg⟩
  · have outside := Nat.le_of_not_lt hg
    exact .inl ((gaugeAt_of_le (exec_gauge_length h ▸ outside)).trans (gaugeAt_of_le outside).symm)

/-! ## The lifecycle (42_stepper.md R240) -/

theorem zeroGauge_zstate (gc : GaugeCfg) (clock : Word) (r : GaugeRec) :
    (zeroGauge gc clock r).zstate = .ready ∨ (zeroGauge gc clock r).zstate = .zeroing := by
  unfold zeroGauge
  split
  · exact .inl rfl
  · exact .inr rfl

/-- A GAUGE.STEP keeps ZSTATE, or it ends a hard-stop run at its target. -/
theorem stepGauge_zstate (gc : GaugeCfg) (clock : Word) (r : GaugeRec) :
    (stepGauge gc clock r).1.zstate = r.zstate ∨
      (r.zstate = .zeroing ∧ (stepGauge gc clock r).1.zstate = .ready ∧
        (stepGauge gc clock r).1.cur = (stepGauge gc clock r).1.tgt) := by
  rcases stepGauge_cases gc clock r with ⟨-, e⟩ | ⟨-, -, e⟩ | ⟨-, -, e⟩ <;> rw [e]
  · dsimp only
    split
    · exact .inl rfl
    · exact .inl rfl
  · exact .inl rfl
  · by_cases ends : (towardTarget gc r).idle = true ∧ r.zstate = .zeroing
    · obtain ⟨idle, zeroing⟩ := ends
      refine .inr ⟨zeroing, by simp [settleStep, idle, zeroing], ?_⟩
      rw [settleStep_cur, settleStep_tgt]
      exact beq_iff_eq.mp idle
    · refine .inl ?_
      simp only [settleStep, towardTarget_zstate, Bool.and_eq_true, beq_iff_eq, ends, if_false]

/-- Settles O50: GAUGE.ZERO starts the lifecycle, GAUGE.STEP ends its hard-stop run, and a new target leaves it alone. -/
theorem gaugeLifecycle : Obligations.GaugeLifecycle := by
  refine ⟨⟨rfl, rfl, rfl⟩, fun i s t g h => ?_⟩
  rcases exec_gaugeAt h g with same | ⟨moved, change⟩
  · exact .inl (by rw [same])
  · generalize t.gaugeAt g = r' at change
    cases change with
    | other => exact .inl rfl
    | zero named unzeroed => exact .inr (.inl ⟨⟨_, rfl, named⟩, unzeroed, zeroGauge_zstate _ _ _⟩)
    | target => exact .inl rfl
    | step named zeroed =>
      rcases stepGauge_zstate (s.cfg.gaugeCfg g) s.clock (s.gaugeAt g) with same | ended
      · exact .inl same
      · exact .inr (.inr ⟨⟨_, rfl, named⟩, ended⟩)

/-! ## Only GAUGE.STEP moves the motor (42_stepper.md R247) -/

theorem zeroGauge_phase_pins (gc : GaugeCfg) (clock : Word) (r : GaugeRec) :
    (zeroGauge gc clock r).phase = 0 ∧ (zeroGauge gc clock r).pins = r.pins := by
  unfold zeroGauge
  split <;> exact ⟨rfl, rfl⟩

/-- Under the invariant an UNZEROED gauge is still at reset. -/
theorem gaugeAt_of_unzeroed {s : State} (hinv : s.Inv) {g : Nat} (unzeroed : (s.gaugeAt g).zstate = .unzeroed) :
    s.gaugeAt g = GaugeRec.zero := by
  obtain ⟨-, -, -, -, ⟨length, gauges⟩, -⟩ := hinv
  by_cases hg : g < s.cfg.numGauges
  · obtain ⟨-, -, atReset, -, -⟩ := gauges g hg
    exact atReset unzeroed
  · exact gaugeAt_of_le (by omega)

/-- Settles O51: zeroing writes PHASE over the 0 of reset, and a new target writes TGT alone. -/
theorem onlyStepMoves : Obligations.OnlyStepMoves := by
  intro i s t g hinv h
  rcases exec_gaugeAt h g with same | ⟨moved, change⟩
  · simp [same]
  · generalize t.gaugeAt g = r' at change
    cases change with
    | other => simp
    | zero named unzeroed =>
      have atReset := gaugeAt_of_unzeroed hinv unzeroed
      obtain ⟨phase, pins⟩ := zeroGauge_phase_pins (s.cfg.gaugeCfg g) s.clock (s.gaugeAt g)
      have phaseKept : (0 : BitVec 3) = (s.gaugeAt g).phase := by rw [atReset]; rfl
      rw [phase, pins]
      exact ⟨fun changed => absurd phaseKept (changed.resolve_right fun ne => ne rfl),
        fun _ zeroed => absurd unzeroed zeroed⟩
    | target => simp [retarget]
    | step named => exact ⟨fun _ => ⟨_, rfl, named⟩, fun _ _ => ⟨_, rfl, named⟩⟩

/-! ## One step of the block and one gauge -/

/-- A step takes the next event from the environment. -/
theorem step_env {s t : State} (h : step s = .next t) : t.env = s.env.tail := by
  obtain ⟨-, ⟨he, -, rfl⟩ | ⟨rest, he, -, rfl⟩ | ⟨p, cmd, side, rest, he, offer⟩⟩ := step_cases h
  · rw [he]; rfl
  · rw [he]; rfl
  · rw [he]
    rcases offer with ⟨-, -, rfl⟩ | ⟨-, -, -, rfl⟩ | ⟨-, i, -, -, hexec⟩
    · rfl
    · rfl
    · exact exec_env hexec

theorem movesGauge_of_run {g : Nat} {s t u : State} {i : Instr} (hf : fetch s = .run i t) (h : exec i t = .next u) :
    movesGauge g s = movedBy g i (delivered t u) := by
  unfold movesGauge
  rw [hf]
  cases i with
  | gaugeStep k => simp only [h, movedBy]
  | _ => rfl

theorem movesGauge_of_done {g : Nat} {s : State} {o : Host.Outcome State Fault Refusal} (hf : fetch s = .done o) :
    movesGauge g s = false := by
  rw [movesGauge, hf]

/-- To a gauge that is there a step is some command or none, or it is a reset. -/
theorem step_gaugeAt {s t : State} (h : step s = .next t) {g : Nat} (hg : g < s.gauge.length) :
    (∃ i, GaugeCommand g (s.cfg.gaugeCfg g) s.clock (s.gaugeAt g) i (t.gaugeAt g) (movesGauge g s)) ∨
    (s.noResetFor 1 = false ∧ movesGauge g s = false ∧ t.gaugeAt g = GaugeRec.zero) := by
  obtain ⟨-, ⟨-, hf, rfl⟩ | ⟨rest, he, hf, rfl⟩ | ⟨p, cmd, side, rest, -, offer⟩⟩ := step_cases h
  · rw [movesGauge_of_done hf]
    exact .inl ⟨.fifoPop, .other⟩
  · exact .inr ⟨by simp [State.noResetFor, he], movesGauge_of_done hf,
      by simp [State.gaugeAt, State.afterReset, State.resetWith]⟩
  · rcases offer with ⟨-, hf, rfl⟩ | ⟨-, -, hf, rfl⟩ | ⟨-, i, -, hf, hexec⟩
    · rw [movesGauge_of_done hf, serving_gaugeAt]
      exact .inl ⟨.fifoPop, .other⟩
    · rw [movesGauge_of_done hf, takeFault_gaugeAt, serving_gaugeAt]
      exact .inl ⟨.fifoPop, .other⟩
    · rw [movesGauge_of_run hf hexec]
      exact .inl ⟨i, exec_gaugeCommand hexec hg⟩

/-- Without a reset it is some command or none. -/
theorem step_gaugeCommand {s t : State} (h : step s = .next t) (hr : s.noResetFor 1 = true) {g : Nat}
    (hg : g < s.gauge.length) :
    ∃ i, GaugeCommand g (s.cfg.gaugeCfg g) s.clock (s.gaugeAt g) i (t.gaugeAt g) (movesGauge g s) :=
  (step_gaugeAt h hg).resolve_right fun reset => absurd (hr.symm.trans reset.1) (by decide)

/-- A zeroed gauge is one of the array. -/
theorem lt_of_zeroed {s : State} {g : Nat} (zeroed : (s.gaugeAt g).zstate ≠ .unzeroed) : g < s.gauge.length := by
  by_contra outside
  rw [gaugeAt_of_le (Nat.le_of_not_lt outside)] at zeroed
  exact zeroed rfl

/-- A command that moves a gauge passed the check of its index. -/
theorem lt_of_movedBy {i : Instr} {s t : State} (h : exec i s = .next t) {g : Nat}
    (moved : movedBy g i (delivered s t) = true) : g < s.cfg.numGauges := by
  cases exec_outcome h with
  | notAccepted => simp [delivered_self, movedBy_nil] at moved
  | fault => simp [delivered_takeFault, movedBy_nil] at moved
  | completes _ effect =>
    rw [effect.silent.delivered] at moved
    cases effect with
    | keep notStep => simp [movedBy_of_not_step g notStep] at moved
    | push pushes => rcases pushes with rfl | rfl <;> simp [movedBy] at moved
    | target targets => rcases targets with ⟨q, rfl⟩ | rfl <;> simp [movedBy] at moved
    | step inRange =>
      simp only [movedBy, Bool.and_eq_true, beq_iff_eq] at moved
      exact moved.1 ▸ inRange
    | pop | flush | config | dispatch | transmit | drain | zero | clkInit | irqEnable | irqDisable | buserr | tick =>
      simp [movedBy] at moved

/-- A step that moves a gauge runs a command, and the gauge is one of the array. -/
theorem step_of_movesGauge {s : State} {g : Nat} (moved : movesGauge g s = true) :
    ∃ t, step s = .next t ∧ g < s.cfg.numGauges := by
  cases hf : fetch s with
  | done o => simp [movesGauge_of_done hf] at moved
  | run i t =>
    obtain ⟨u, hexec⟩ := everyCommandAnswers i t
    have hstep : step s = .next u := (step_of_fetch_run hf).trans hexec
    rw [movesGauge_of_run hf hexec] at moved
    have cfgKept : t.cfg = s.cfg := (exec_cfg hexec).symm.trans (step_cfg hstep)
    exact ⟨u, hstep, cfgKept ▸ lt_of_movedBy hexec moved⟩

/-! ## A zeroed gauge under one command -/

/-- A zeroed gauge either makes one step, which counts as a move, or keeps ZSTATE, CUR and LAST_T, with PINS kept or
released. -/
theorem GaugeCommand.of_zeroed {g : Nat} {gc : GaugeCfg} {clock : Word} {r r' : GaugeRec} {i : Instr} {moved : Bool}
    (h : GaugeCommand g gc clock r i r' moved) (zeroed : r.zstate ≠ .unzeroed) :
    (moved = true ∧ r.cur ≠ r.tgt ∧ gc.stepDelay ≤ elapsed clock r.lastT ∧
      r' = settleStep gc clock (towardTarget gc r)) ∨
    (moved = false ∧ r'.zstate = r.zstate ∧ r'.cur = r.cur ∧ r'.lastT = r.lastT ∧
      (r'.pins = r.pins ∨ (gc.hold = false ∧ r'.pins = 0))) := by
  cases h with
  | other => exact .inr ⟨rfl, rfl, rfl, rfl, .inl rfl⟩
  | zero _ unzeroed => exact absurd unzeroed zeroed
  | target => exact .inr ⟨rfl, rfl, rfl, rfl, .inl rfl⟩
  | step =>
    rcases stepGauge_cases gc clock r with ⟨-, e⟩ | ⟨-, -, e⟩ | ⟨stepping, elapsed, e⟩ <;> rw [e]
    · dsimp only
      split
      · exact .inr ⟨rfl, rfl, rfl, rfl, .inl rfl⟩
      · next released => exact .inr ⟨rfl, rfl, rfl, rfl, .inr ⟨by simpa using released, rfl⟩⟩
    · exact .inr ⟨rfl, rfl, rfl, rfl, .inl rfl⟩
    · exact .inl ⟨rfl, stepping, elapsed, rfl⟩

/-- Only a GAUGE.STEP that is eligible moves a gauge (R251). -/
theorem GaugeCommand.of_moved {g : Nat} {gc : GaugeCfg} {clock : Word} {r r' : GaugeRec} {i : Instr} {moved : Bool}
    (h : GaugeCommand g gc clock r i r' moved) (hm : moved = true) :
    r.zstate ≠ .unzeroed ∧ r.cur ≠ r.tgt ∧ gc.stepDelay ≤ elapsed clock r.lastT ∧
      r' = settleStep gc clock (towardTarget gc r) := by
  have zeroed : r.zstate ≠ .unzeroed := by
    cases h with
    | other | zero | target => cases hm
    | step _ zeroed => exact zeroed
  rcases h.of_zeroed zeroed with ⟨-, eligible⟩ | ⟨notMoved, -⟩
  · exact ⟨zeroed, eligible⟩
  · exact absurd (hm.symm.trans notMoved) (by decide)

/-- Only a hard-stop run changes its ZSTATE by a step. -/
theorem settleStep_zstate {r : GaugeRec} (h : r.zstate ≠ .zeroing) (gc : GaugeCfg) (clock : Word) :
    (settleStep gc clock r).zstate = r.zstate := by
  simp [settleStep, h]

/-! ## Runs -/

theorem moves_succ {k g : Nat} {s t : State} (h : step s = .next t) :
    moves g (k + 1) s = (if movesGauge g s then 1 else 0) + moves g k t := by
  rw [moves, h]

/-- A run without a reset is a step without one and a run without one. -/
theorem noResetFor_of_succ {k : Nat} {s t : State} (h : step s = .next t) (hr : s.noResetFor (k + 1) = true) :
    s.noResetFor 1 = true ∧ t.noResetFor k = true := by
  have later : t.noResetFor k = (s.serving s.port s.env.tail).noResetFor k := by
    rw [State.noResetFor, State.noResetFor, step_env h, serving_env]
  rw [noResetFor_succ s k s.port, Bool.and_eq_true] at hr
  exact ⟨hr.1, later.trans hr.2⟩

/-- A target that is held over a run is held by its first step and over the rest. -/
theorem holdsTarget_of_succ {k g : Nat} {s t : State} (h : step s = .next t) (held : s.holdsTarget g (k + 1)) :
    s.noResetFor 1 = true ∧ (t.gaugeAt g).tgt = (s.gaugeAt g).tgt ∧ t.holdsTarget g k := by
  obtain ⟨hr, hold⟩ := held
  obtain ⟨first, later⟩ := noResetFor_of_succ h hr
  have afterStep {j : Nat} {u : State} (hu : stepN j t = some u) : stepN (j + 1) s = some u :=
    stepN_succ_iff.mpr ⟨t, h, hu⟩
  have heldNow : (t.gaugeAt g).tgt = (s.gaugeAt g).tgt := hold 1 (by omega) t (afterStep rfl)
  exact ⟨first, heldNow, later, fun j hj u hu => (hold (j + 1) (by omega) u (afterStep hu)).trans heldNow.symm⟩

/-- Every run keeps the invariant. -/
theorem stepN_inv {k : Nat} {s t : State} (h : stepN k s = some t) (hinv : s.Inv) : t.Inv :=
  stepN_induction (R := fun s t => s.Inv → t.Inv) (fun _ => id) (fun hst htu => htu ∘ hst) step_inv h hinv

/-! ## Convergence (42_stepper.md R255, its first three points) -/

/-- From `r` to `r'` a gauge made `n` steps toward a target that stayed, none of them past it. -/
structure Approaches (n : Nat) (r r' : GaugeRec) : Prop where
  target : r'.tgt = r.tgt
  distance : n + r'.distance = r.distance
  up : r.cur.toNat ≤ r.tgt.toNat → r.cur.toNat ≤ r'.cur.toNat ∧ r'.cur.toNat ≤ r.tgt.toNat
  down : r.tgt.toNat ≤ r.cur.toNat → r.tgt.toNat ≤ r'.cur.toNat ∧ r'.cur.toNat ≤ r.cur.toNat

namespace Approaches

theorem of_kept {r r' : GaugeRec} (cur : r'.cur = r.cur) (tgt : r'.tgt = r.tgt) : Approaches 0 r r' :=
  ⟨tgt, by rw [Nat.zero_add, GaugeRec.distance, cur, tgt]; rfl, by rw [cur]; omega, by rw [cur]; omega⟩

theorem trans {m n : Nat} {r r' r'' : GaugeRec} (first : Approaches m r r') (rest : Approaches n r' r'') :
    Approaches (m + n) r r'' := by
  obtain ⟨tgt, distance, up, down⟩ := first
  obtain ⟨tgt', distance', up', down'⟩ := rest
  rw [tgt] at up' down'
  refine ⟨tgt'.trans tgt, by omega, fun below => ?_, fun above => ?_⟩
  · have := up below
    have := up' this.2
    omega
  · have := down above
    have := down' this.1
    omega

/-- A move is one step nearer. -/
theorem of_move {r : GaugeRec} (stepping : r.cur ≠ r.tgt) (gc : GaugeCfg) (clock : Word) :
    Approaches 1 r (settleStep gc clock (towardTarget gc r)) := by
  have nearer := towardTarget_cur gc r stepping
  constructor <;> simp only [GaugeRec.distance, settleStep_cur, settleStep_tgt, towardTarget_tgt] <;> omega

end Approaches

/-- A READY gauge under a command that keeps its target stays READY and approaches it, by one step where it is moved. -/
theorem GaugeCommand.approaches {g : Nat} {gc : GaugeCfg} {clock : Word} {r r' : GaugeRec} {i : Instr} {moved : Bool}
    (h : GaugeCommand g gc clock r i r' moved) (ready : r.zstate = .ready) (held : r'.tgt = r.tgt) :
    r'.zstate = .ready ∧ Approaches (if moved then 1 else 0) r r' := by
  rcases h.of_zeroed (by simp [ready]) with ⟨rfl, stepping, -, rfl⟩ | ⟨rfl, zstate, cur, -, -⟩
  · refine ⟨?_, .of_move stepping gc clock⟩
    rw [settleStep_zstate (by simp [ready]), towardTarget_zstate, ready]
  · exact ⟨zstate.trans ready, .of_kept cur held⟩

/-- Along a run that holds the target of a READY gauge, it approaches that target by the number of its moves. -/
theorem stepN_approaches {k g : Nat} {s u : State} (h : stepN k s = some u) (ready : (s.gaugeAt g).zstate = .ready)
    (held : s.holdsTarget g k) : Approaches (moves g k s) (s.gaugeAt g) (u.gaugeAt g) := by
  induction k generalizing s with
  | zero =>
    obtain rfl : s = u := Option.some.inj h
    exact .of_kept rfl rfl
  | succ k ih =>
    obtain ⟨t, hst, htu⟩ := stepN_succ_iff.mp h
    obtain ⟨noReset, heldNow, heldLater⟩ := holdsTarget_of_succ hst held
    obtain ⟨i, change⟩ := step_gaugeCommand hst noReset (lt_of_zeroed (g := g) (by simp [ready]))
    obtain ⟨stillReady, first⟩ := change.approaches ready heldNow
    rw [moves_succ hst]
    exact first.trans (ih htu stillReady heldLater)

/-- In RUN a GAUGE.STEP of a zeroed gauge completes: it writes the gauge and delivers whether it moved. -/
theorem exec_gaugeStep_completes {g : BitVec 4} {s : State} (run : s.mode = .run) (hp : s.port = .main)
    (hg : g.toNat < s.cfg.numGauges) (zeroed : (s.gaugeAt g.toNat).zstate ≠ .unzeroed) :
    exec (.gaugeStep g) s = .next
      ((s.putGauge g.toNat (stepGauge (s.cfg.gaugeCfg g.toNat) s.clock (s.gaugeAt g.toNat)).1).deliver
        { b := (stepGauge (s.cfg.gaugeCfg g.toNat) s.clock (s.gaugeAt g.toNat)).2 }) := by
  rw [exec_gaugeStep_eq]
  exact command_completes_main (accepting_of_run run) hp rfl rfl (by simp [needsGauge, needsRun, hg, run, zeroed])

/-- An offered GAUGE.STEP of a zeroed gauge that is off its target and whose delay has passed moves it (R251, R252). -/
theorem offered_gaugeStep_moves {g : BitVec 4} {s : State} {cmd : Word} {side : List Word} {rest : List EnvEvent}
    (hinv : s.Inv) (he : s.env = .offer .main cmd side :: rest) (hd : decode cmd side = .ok (.gaugeStep g))
    (run : s.mode = .run) (hg : g.toNat < s.cfg.numGauges) (zeroed : (s.gaugeAt g.toNat).zstate ≠ .unzeroed)
    (stepping : (s.gaugeAt g.toNat).cur ≠ (s.gaugeAt g.toNat).tgt)
    (waited : (s.cfg.gaugeCfg g.toNat).stepDelay ≤ elapsed s.clock (s.gaugeAt g.toNat).lastT) :
    movesGauge g.toNat s = true ∧ ∃ t, step s = .next t ∧ t.gaugeAt g.toNat =
      settleStep (s.cfg.gaugeCfg g.toNat) s.clock (towardTarget (s.cfg.gaugeCfg g.toNat) (s.gaugeAt g.toNat)) := by
  have ⟨hc, _, _, _, ⟨length, _⟩, _⟩ := hinv
  have fetched := fetch_of_decode_ok hc (accepting_of_run run) he hd
  have hexec := exec_gaugeStep_completes (s := s.serving .main rest) run rfl hg zeroed
  have moves : stepGauge (s.cfg.gaugeCfg g.toNat) s.clock (s.gaugeAt g.toNat) =
      (settleStep (s.cfg.gaugeCfg g.toNat) s.clock (towardTarget (s.cfg.gaugeCfg g.toNat) (s.gaugeAt g.toNat)), true) := by
    rcases stepGauge_cases (s.cfg.gaugeCfg g.toNat) s.clock (s.gaugeAt g.toNat) with ⟨idle, -⟩ | ⟨-, early, -⟩ | ⟨-, -, e⟩
    · exact absurd idle stepping
    · exact absurd early (Nat.not_lt.mpr waited)
    · exact e
  simp only [serving_cfg, serving_clock, serving_gaugeAt, moves] at hexec
  refine ⟨?moved, _, (step_of_fetch_run fetched).trans hexec, ?written⟩
  case moved =>
    rw [movesGauge_of_run fetched hexec, (putGauge_silent _ _ _).delivered]
    simp [movedBy]
  case written =>
    rw [deliver_gaugeAt, gaugeAt_putGauge_self (by rw [serving_gauge, length]; exact hg)]

/-- Settles O52: every move along the run is one step nearer, and an eligible GAUGE.STEP is a move. -/
theorem gaugeConverges : Obligations.GaugeConverges := by
  refine ⟨fun k g s t hinv ready held h => ?measure,
    fun g s cmd side rest hinv he hd run hg zeroed stepping waited => ?progress⟩
  case measure =>
    obtain ⟨-, distance, up, down⟩ := stepN_approaches h ready held
    exact ⟨distance, up, down⟩
  case progress =>
    obtain ⟨moved, t, hstep, e⟩ := offered_gaugeStep_moves hinv he hd run hg zeroed stepping waited
    obtain ⟨target, distance, -, -⟩ := Approaches.of_move stepping (s.cfg.gaugeCfg g.toNat) s.clock
    rw [← e] at target distance
    exact ⟨moved, t, hstep, target, by omega⟩

/-! ## The rate of the steps (42_stepper.md R255, its fourth point) -/

/-- A gauge is zeroed, and its last step or its zeroing was at CLOCK = `clock`. -/
def SteppedAt (clock : Word) (r : GaugeRec) : Prop := r.zstate ≠ .unzeroed ∧ r.lastT = clock

/-- A command that moves or zeroes a gauge stamps it with CLOCK. -/
theorem GaugeCommand.steppedAt {g : Nat} {gc : GaugeCfg} {clock : Word} {r r' : GaugeRec} {i : Instr} {moved : Bool}
    (h : GaugeCommand g gc clock r i r' moved)
    (active : moved = true ∨ (r.zstate = .unzeroed ∧ r'.zstate ≠ .unzeroed)) : SteppedAt clock r' := by
  rcases active with moved | ⟨unzeroed, zeroed'⟩
  · obtain ⟨zeroed, -, -, rfl⟩ := h.of_moved moved
    refine ⟨?_, rfl⟩
    simp only [settleStep, towardTarget_zstate]
    split
    · decide
    · exact zeroed
  · cases h with
    | other => exact absurd unzeroed zeroed'
    | zero => exact ⟨zeroed', by unfold zeroGauge; split <;> rfl⟩
    | target _ ready => simp [ready] at unzeroed
    | step _ zeroed => exact absurd unzeroed zeroed

/-- A zeroed gauge keeps its stamp along a run without a reset in which it is not moved. -/
theorem stepN_steppedAt {k g : Nat} {clock : Word} {s u : State} (h : stepN k s = some u) (hr : s.noResetFor k = true)
    (still : moves g k s = 0) (stamped : SteppedAt clock (s.gaugeAt g)) : SteppedAt clock (u.gaugeAt g) := by
  induction k generalizing s with
  | zero =>
    obtain rfl : s = u := Option.some.inj h
    exact stamped
  | succ k ih =>
    obtain ⟨t, hst, htu⟩ := stepN_succ_iff.mp h
    obtain ⟨noReset, later⟩ := noResetFor_of_succ hst hr
    obtain ⟨zeroed, lastT⟩ := stamped
    obtain ⟨i, change⟩ := step_gaugeCommand hst noReset (lt_of_zeroed zeroed)
    rw [moves_succ hst, Nat.add_eq_zero_iff] at still
    rcases change.of_zeroed zeroed with ⟨moved, -⟩ | ⟨-, zstate, -, keptT, -⟩
    · simp [moved] at still
    · exact ih htu later still.2 ⟨zstate ▸ zeroed, keptT.trans lastT⟩

/-- Settles O53: the first step stamps the gauge with its CLOCK, and the next move has waited from that stamp on. -/
theorem stepsAreRateLimited : Obligations.StepsAreRateLimited := by
  intro k g s t u hinv hst active hr htu still moved
  have hinvU : u.Inv := stepN_inv htu (step_inv hst hinv)
  have ⟨_, _, _, _, ⟨lengthS, _⟩, _⟩ := hinv
  have ⟨_, _, _, _, ⟨lengthU, _⟩, _⟩ := hinvU
  have cfgKept : u.cfg = s.cfg := (stepN_cfg htu).trans (step_cfg hst)
  obtain ⟨v, huv, inRange⟩ := step_of_movesGauge moved
  have stampedT : SteppedAt s.clock (t.gaugeAt g) := by
    rcases step_gaugeAt hst (g := g) (by rw [lengthS, ← cfgKept]; exact inRange) with ⟨i, change⟩ | ⟨-, notMoved, atReset⟩
    · exact change.steppedAt active
    · simp [notMoved, atReset, GaugeRec.zero] at active
  obtain ⟨-, lastT⟩ := stepN_steppedAt htu hr still stampedT
  rcases step_gaugeAt huv (g := g) (by rw [lengthU]; exact inRange) with ⟨i, change⟩ | ⟨-, notMoved, -⟩
  · obtain ⟨-, -, waited, -⟩ := change.of_moved moved
    rwa [lastT, cfgKept] at waited
  · exact absurd (moved.symm.trans notMoved) (by decide)

/-! ## At the target (42_stepper.md R255, its last point) -/

/-- A READY gauge rests at its target, its coils held where HOLD_g asks for it and released else. -/
structure Settled (gc : GaugeCfg) (r : GaugeRec) : Prop where
  ready : r.zstate = .ready
  idle : r.cur = r.tgt
  coils : gc.hold = true ∨ r.pins = 0

/-- The move that reaches the target settles the gauge. -/
theorem settled_of_move {gc : GaugeCfg} {clock : Word} {r : GaugeRec} (zeroed : r.zstate ≠ .unzeroed)
    (idle : (settleStep gc clock (towardTarget gc r)).cur = (settleStep gc clock (towardTarget gc r)).tgt) :
    Settled gc (settleStep gc clock (towardTarget gc r)) := by
  have atTarget : (towardTarget gc r).idle = true := beq_iff_eq.mpr idle
  refine ⟨?ready, idle, ?coils⟩
  case ready =>
    cases hz : r.zstate with
    | unzeroed => exact absurd hz zeroed
    | zeroing => simp [settleStep, atTarget, hz]
    | ready => simp [settleStep, hz]
  case coils => cases hold : gc.hold <;> simp [settleStep, atTarget, hold]

/-- A settled gauge whose target is kept stays settled, unmoved and with its coils as they are. -/
theorem GaugeCommand.settled {g : Nat} {gc : GaugeCfg} {clock : Word} {r r' : GaugeRec} {i : Instr} {moved : Bool}
    (h : GaugeCommand g gc clock r i r' moved) (settled : Settled gc r) (held : r'.tgt = r.tgt) :
    moved = false ∧ Settled gc r' ∧ r'.pins = r.pins ∧ r'.cur = r.cur := by
  obtain ⟨ready, idle, coils⟩ := settled
  rcases h.of_zeroed (by simp [ready]) with ⟨-, stepping, -⟩ | ⟨notMoved, zstate, cur, -, pins⟩
  · exact absurd idle stepping
  · have pinsKept : r'.pins = r.pins := by
      rcases pins with kept | ⟨noHold, released⟩
      · exact kept
      · exact released.trans (coils.resolve_left (by simp [noHold])).symm
    exact ⟨notMoved, ⟨zstate.trans ready, by rw [cur, idle, held], by rwa [pinsKept]⟩, pinsKept, cur⟩

/-- Along a run that holds its target a settled gauge rests. -/
theorem stepN_settled {k g : Nat} {s u : State} (h : stepN k s = some u)
    (settled : Settled (s.cfg.gaugeCfg g) (s.gaugeAt g)) (held : s.holdsTarget g k) :
    moves g k s = 0 ∧ (u.gaugeAt g).pins = (s.gaugeAt g).pins ∧ (u.gaugeAt g).cur = (s.gaugeAt g).cur := by
  induction k generalizing s with
  | zero =>
    obtain rfl : s = u := Option.some.inj h
    exact ⟨rfl, rfl, rfl⟩
  | succ k ih =>
    obtain ⟨t, hst, htu⟩ := stepN_succ_iff.mp h
    obtain ⟨noReset, heldNow, heldLater⟩ := holdsTarget_of_succ hst held
    obtain ⟨i, change⟩ := step_gaugeCommand hst noReset (lt_of_zeroed (g := g) (by simp [settled.ready]))
    obtain ⟨notMoved, stillSettled, pins, cur⟩ := change.settled settled heldNow
    obtain ⟨noMoves, pins', cur'⟩ := ih htu (step_cfg hst ▸ stillSettled) heldLater
    exact ⟨by simp [moves_succ hst, notMoved, noMoves], pins'.trans pins, cur'.trans cur⟩

/-- Settles O54: the move that reaches the target leaves the gauge settled, and a settled gauge rests. -/
theorem settledGaugeStays : Obligations.SettledGaugeStays := by
  intro k g s t u hinv moved hst idle held htu
  have ⟨_, _, _, _, ⟨length, _⟩, _⟩ := hinv
  obtain ⟨-, -, inRange⟩ := step_of_movesGauge moved
  have settled : Settled (t.cfg.gaugeCfg g) (t.gaugeAt g) := by
    rcases step_gaugeAt hst (g := g) (by rw [length]; exact inRange) with ⟨i, change⟩ | ⟨-, notMoved, -⟩
    · obtain ⟨zeroed, -, -, e⟩ := change.of_moved moved
      rw [e] at idle
      rw [step_cfg hst, e]
      exact settled_of_move zeroed idle
    · exact absurd (moved.symm.trans notMoved) (by decide)
  exact stepN_settled htu settled held

end Sys2Proof.Machine
end

section
/-! The two contexts: the state that each writes, what the other reads of the FIFO, and the order of its frames (60_exceptions.md
R331, 40_fifo.md R154, R161, 10_state.md R48, 20_memory.md R93, 42_stepper.md R259). -/

namespace Sys2Proof.Machine

/-! ## The effects of each context (60_exceptions.md R331) -/

/-- The five opcodes of the IRQ context (30_encoding.md R115). -/
theorem context_eq_irq_iff_mem (op : Opcode) :
    op.context = .irq ↔ op ∈ [.fifoPush, .canRx, .canTxdone, .canBuserr, .clkTick] := by
  cases op <;> decide

/-- All others are of the MAIN context. -/
theorem context_eq_main_iff_not_mem (op : Opcode) :
    op.context = .main ↔ op ∉ [.fifoPush, .canRx, .canTxdone, .canBuserr, .clkTick] := by
  cases op <;> decide

/-- The effects of the IRQ context: a frame at TAIL, the error latch, the clock. -/
theorem Effect.of_irq {s u : State} {i : Instr} {r : Result} (effect : Effect s i u r) (hc : i.opcode.context = .irq) :
    u = s ∨ (∃ f, s.count ≠ s.cfg.fifoDepth ∧ u = s.pushFrame f) ∨
      (∃ code, u = { s with errFlag := true, errCode := code }) ∨ u = { s with clock := s.clock + 1 } := by
  cases effect with
  | keep => exact .inl rfl
  | @push _ f _ _ _ notFull => exact .inr (.inl ⟨f, notFull, rfl⟩)
  | @buserr code => exact .inr (.inr (.inl ⟨code, rfl⟩))
  | tick => exact .inr (.inr (.inr rfl))
  | target targets => rcases targets with ⟨q, rfl⟩ | rfl <;> simp [Instr.opcode, context_eq_irq_iff_mem] at hc
  | pop | flush | config | dispatch | transmit | drain | zero | step | clkInit | irqEnable | irqDisable =>
    simp [Instr.opcode, context_eq_irq_iff_mem] at hc

/-- What an effect of the MAIN context leaves alone: CLOCK, ERR_CODE, a clear error flag, the queue's TAIL side but for a
masked flush, and COUNT but to lower it. -/
structure MainFrame (i : Instr) (s u : State) : Prop where
  clock : u.clock = s.clock
  errCode : u.errCode = s.errCode
  errFlag : u.errFlag = true → s.errFlag = true
  tailSide : (u.slot = s.slot ∧ u.tail = s.tail ∧ u.twrap = s.twrap) ∨ (i = .fifoFlush ∧ s.irqEn = false)

theorem Effect.of_main {s u : State} {i : Instr} {r : Result} (effect : Effect s i u r) (hc : i.opcode.context = .main) :
    MainFrame i s u := by
  cases effect with
  | push pushes => rcases pushes with rfl | rfl <;> simp [Instr.opcode, context_eq_main_iff_not_mem] at hc
  | buserr | tick => simp [Instr.opcode, context_eq_main_iff_not_mem] at hc
  | flush masked => exact ⟨rfl, rfl, id, .inr ⟨rfl, masked⟩⟩
  | dispatch =>
    rw [dispatchFrame_eq]
    exact ⟨rfl, rfl, id, .inl ⟨rfl, rfl, rfl⟩⟩
  | drain => exact ⟨rfl, rfl, nofun, .inl ⟨rfl, rfl, rfl⟩⟩
  | keep | pop | config | transmit | zero | target | step | clkInit | irqEnable | irqDisable =>
    exact ⟨rfl, rfl, id, .inl ⟨rfl, rfl, rfl⟩⟩

/-- The state that a command on the IRQ port may write, the fault entry and its result included. -/
structure IrqFrame (s t : State) : Prop where
  written : t = { s with slot := t.slot, tail := t.tail, twrap := t.twrap, errFlag := t.errFlag, errCode := t.errCode,
                         clock := t.clock, mode := t.mode, faultCode := t.faultCode, faultOp := t.faultOp,
                         faultPort := t.faultPort, resIrq := t.resIrq }
  mode : t.mode = s.mode ∨ t.mode = .faulted
  errFlag : s.errFlag = true → t.errFlag = true
  slots : t.slot.length = s.slot.length
  slot : ∀ k : Nat, k ≠ s.tail.toNat → t.slot[k]? = s.slot[k]?

theorem exec_irqFrame {i : Instr} {s t : State} (h : exec i s = .next t) (hp : s.port = .irq) : IrqFrame s t := by
  cases exec_outcome h with
  | notAccepted => exact ⟨rfl, .inl rfl, id, rfl, fun _ _ => rfl⟩
  | fault => exact ⟨rfl, .inr rfl, id, rfl, fun _ _ => rfl⟩
  | completes admitted effect =>
    rw [deliver_irq (effect.silent.port.trans hp)]
    rcases effect.of_irq ((port_of_admits admitted).symm.trans hp) with rfl | ⟨f, -, rfl⟩ | ⟨code, rfl⟩ | rfl
    · exact ⟨rfl, .inl rfl, id, rfl, fun _ _ => rfl⟩
    · exact ⟨rfl, .inl rfl, id, List.length_set, fun k other => List.getElem?_set_ne other.symm⟩
    · exact ⟨rfl, .inl rfl, fun _ => rfl, rfl, fun _ _ => rfl⟩
    · exact ⟨rfl, .inl rfl, id, rfl, fun _ _ => rfl⟩

theorem exec_mainFrame {i : Instr} {s t : State} (h : exec i s = .next t) (hp : s.port = .main) :
    MainFrame i s t ∧ t.resIrq = s.resIrq := by
  cases exec_outcome h with
  | notAccepted => exact ⟨⟨rfl, rfl, id, .inl ⟨rfl, rfl, rfl⟩⟩, rfl⟩
  | fault => exact ⟨⟨rfl, rfl, id, .inl ⟨rfl, rfl, rfl⟩⟩, rfl⟩
  | @completes u r admitted effect =>
    obtain ⟨clock, errCode, errFlag, tailSide⟩ := effect.of_main ((port_of_admits admitted).symm.trans hp)
    refine ⟨⟨?_, ?_, ?_, ?_⟩, ((effect.silent.deliver_own_port r).1 hp).2⟩
    · rwa [deliver_clock]
    · rwa [deliver_errCode]
    · rwa [deliver_errFlag]
    · rwa [deliver_slot, deliver_tail, deliver_twrap]

/-- Settles O41: the frame of each context, effect by effect. -/
theorem contextOwnership : Obligations.ContextOwnership := by
  intro i s t h
  refine ⟨fun hp => ?irq, fun hp => ?main⟩
  case irq =>
    obtain ⟨written, mode, errFlag, slots, slot⟩ := exec_irqFrame h hp
    exact ⟨written, mode, errFlag, slots, slot⟩
  case main =>
    obtain ⟨⟨clock, errCode, errFlag, tailSide⟩, resIrq⟩ := exec_mainFrame h hp
    exact ⟨clock, errCode, resIrq, errFlag, tailSide⟩

/-! ## COUNT across the contexts (40_fifo.md R161) -/

/-- Of the MAIN effects only a pop and a flush touch the pointers, and they lower COUNT. -/
theorem Effect.count_le {s u : State} {i : Instr} {r : Result} (effect : Effect s i u r) (hc : i.opcode.context = .main)
    (sound : s.FifoSound) : u.count ≤ s.count := by
  cases effect with
  | pop notEmpty =>
    have := popHead_count sound.depth_le sound.head_lt sound.tail_lt notEmpty
    omega
  | flush => rw [flushFifo_count]; exact Nat.zero_le _
  | dispatch => exact (count_of_fifoPart (dispatchFrame_fifoPart s _)).le
  | push pushes => rcases pushes with rfl | rfl <;> simp [Instr.opcode, context_eq_main_iff_not_mem] at hc
  | buserr | tick => simp [Instr.opcode, context_eq_main_iff_not_mem] at hc
  | keep | config | transmit | drain | zero | target | step | clkInit | irqEnable | irqDisable => exact Nat.le_refl _

/-- Of the IRQ effects only a push touches a pointer, and it raises COUNT, never past N. -/
theorem Effect.le_count {s u : State} {i : Instr} {r : Result} (effect : Effect s i u r) (hc : i.opcode.context = .irq)
    (sound : s.FifoSound) : s.count ≤ u.count ∧ u.count ≤ s.cfg.fifoDepth := by
  have unchanged : s.count ≤ s.count ∧ s.count ≤ s.cfg.fifoDepth := ⟨Nat.le_refl _, sound.count_le⟩
  rcases effect.of_irq hc with rfl | ⟨f, notFull, rfl⟩ | ⟨code, rfl⟩ | rfl
  · exact unchanged
  · have room : s.count < s.cfg.fifoDepth := Nat.lt_of_le_of_ne sound.count_le notFull
    have := pushFrame_count f sound.depth_le sound.head_lt sound.tail_lt room
    omega
  · exact unchanged
  · exact unchanged

/-- Settles O42: outside its effect a command leaves COUNT alone, and each context's effects move it one way. -/
theorem countStaleOneWay : Obligations.CountStaleOneWay := by
  intro i s t hinv h
  have sound := State.FifoSound.of_inv hinv
  cases exec_outcome h with
  | notAccepted => exact ⟨fun _ => ⟨Nat.le_refl _, sound.count_le⟩, fun _ => Nat.le_refl _⟩
  | fault =>
    rw [takeFault_count]
    exact ⟨fun _ => ⟨Nat.le_refl _, sound.count_le⟩, fun _ => Nat.le_refl _⟩
  | completes admitted effect =>
    rw [deliver_count]
    have port := port_of_admits admitted
    exact ⟨fun hp => effect.le_count (port.symm.trans hp) sound, fun hp => effect.count_le (port.symm.trans hp) sound⟩

/-! ## Offers on the IRQ port (20_memory.md R93, 42_stepper.md R259) -/

/-- A step on an offer takes the offer, and then nothing happens, or ILLEGAL_OP, or the command. -/
theorem step_of_offer {s t : State} {p : Port} {cmd : Word} {side : List Word} {rest : List EnvEvent}
    (he : s.env = .offer p cmd side :: rest) (h : step s = .next t) :
    t = s.serving p rest ∨ t = (s.serving p rest).takeFault .illegalOp (cmdOp cmd) ∨
      ∃ i, exec i (s.serving p rest) = .next t := by
  obtain ⟨-, ⟨he', -, -⟩ | ⟨rest', he', -, -⟩ | ⟨p', cmd', side', rest', he', offer⟩⟩ := step_cases h
  · simp [he] at he'
  · simp [he] at he'
  · cases he.symm.trans he'
    rcases offer with ⟨-, -, rfl⟩ | ⟨-, -, -, rfl⟩ | ⟨-, i, -, -, hexec⟩
    · exact .inl rfl
    · exact .inr (.inl rfl)
    · exact .inr (.inr ⟨i, hexec⟩)

/-- Settles O55: gauges and signals are not among what a command on the IRQ port may write. -/
theorem irqLeavesGaugesAndSignals : Obligations.IrqLeavesGaugesAndSignals := by
  intro s t cmd side rest he h
  rcases step_of_offer he h with rfl | rfl | ⟨i, hexec⟩
  · exact ⟨rfl, rfl⟩
  · exact ⟨rfl, rfl⟩
  · rw [(exec_irqFrame hexec rfl).written]
    exact ⟨rfl, rfl⟩

/-- What the masked window of R93 protects: the FIFO, the error latch and the output history. -/
structure WindowKept (s t : State) : Prop where
  slot : t.slot = s.slot
  head : t.head = s.head
  hwrap : t.hwrap = s.hwrap
  tail : t.tail = s.tail
  twrap : t.twrap = s.twrap
  errFlag : t.errFlag = s.errFlag
  errCode : t.errCode = s.errCode
  out : t.out = s.out

/-- With IRQ_EN = 0 the gate leaves CLK.TICK alone of the IRQ commands that write anything. -/
theorem exec_windowKept {i : Instr} {s t : State} (h : exec i s = .next t) (hp : s.port = .irq)
    (masked : s.irqEn = false) : WindowKept s t := by
  cases exec_outcome h with
  | notAccepted => exact ⟨rfl, rfl, rfl, rfl, rfl, rfl, rfl, rfl⟩
  | fault => exact ⟨rfl, rfl, rfl, rfl, rfl, rfl, rfl, rfl⟩
  | completes admitted effect =>
    have hc : i.opcode.context = .irq := (port_of_admits admitted).symm.trans hp
    rw [deliver_irq (effect.silent.port.trans hp)]
    cases effect with
    | push _ _ _ unmasked | buserr unmasked => exact absurd (masked.symm.trans unmasked) (by decide)
    | keep | tick => exact ⟨rfl, rfl, rfl, rfl, rfl, rfl, rfl, rfl⟩
    | target targets => rcases targets with ⟨q, rfl⟩ | rfl <;> simp [Instr.opcode, context_eq_irq_iff_mem] at hc
    | pop | flush | config | dispatch | transmit | drain | zero | step | clkInit | irqEnable | irqDisable =>
    simp [Instr.opcode, context_eq_irq_iff_mem] at hc

/-- Settles O43: neither the fetch nor a command that the closed gate lets through touches the window. -/
theorem maskedWindow : Obligations.MaskedWindow := by
  intro s t cmd side rest masked he h
  rcases step_of_offer he h with rfl | rfl | ⟨i, hexec⟩
  · exact ⟨rfl, rfl, rfl, rfl, rfl, rfl, rfl, rfl⟩
  · exact ⟨rfl, rfl, rfl, rfl, rfl, rfl, rfl, rfl⟩
  · obtain ⟨slot, head, hwrap, tail, twrap, errFlag, errCode, out⟩ := exec_windowKept hexec rfl masked
    exact ⟨slot, head, hwrap, tail, twrap, errFlag, errCode, out⟩

/-! ## Order of the frames (40_fifo.md R154) -/

/-- Without a clear, what was popped and then what is held is what was held and then what was pushed. -/
theorem popped_append_of_replay {es : List FifoEvent} {q q' : List Frame} (h : replay es q = some q')
    (noClear : .cleared ∉ es) : poppedFrames es ++ q' = q ++ pushedFrames es := by
  induction es generalizing q with
  | nil =>
    obtain rfl : q = q' := Option.some.inj h
    exact (List.append_nil q).symm
  | cons e es ih =>
    obtain ⟨now, later⟩ := not_or.mp (List.mem_cons.not.mp noClear)
    cases e with
    | pushed f =>
      have rest := ih (q := q ++ [f]) h later
      rwa [List.append_assoc] at rest
    | cleared => exact absurd rfl now
    | popped f =>
      match q, h with
      | g :: q, h =>
        simp only [replay] at h
        split at h
        · next oldest =>
          subst oldest
          exact congrArg (f :: ·) (ih h later)
        · cases h

/-- Settles O39: the replay of the run starts from the empty queue. -/
theorem fifoOrder : Obligations.FifoOrder := by
  intro k s t hinv empty h noClear
  have replayed := (stepN_replays h (.of_inv hinv)).queue
  have start : s.queued = [] := List.length_eq_zero_iff.mp ((queued_length s).trans empty)
  rw [start] at replayed
  exact popped_append_of_replay replayed noClear

end Sys2Proof.Machine
end

section
/-! The commands one by one: each use of the shared handling, fault by fault and then its effect (40_fifo.md, 41_can.md,
42_stepper.md, 43_system.md). -/

namespace Sys2Proof.Machine

/-! ## Delivering on each port -/

/-- A MAIN command whose checks pass has its effect and puts its result on the MAIN channel. -/
theorem command_delivers_main {s u : State} {op : Opcode} {cs : List Check} {r : Result}
    (hm : s.mode.accepting = true) (hp : s.port = .main) (hc : op.context = .main) (hu : u.port = s.port)
    (hf : firstFault cs = none) : command op s cs (u, r) = .next { u with resMain := u.resMain ++ [r] } := by
  rw [command_completes_main hm hp hc (gateOf_of_context_main hc) hf]
  exact congrArg _ (deliver_main (hu.trans hp) r)

/-- A CAN-side command with IRQ_EN = 1 whose checks pass has its effect and puts its result on the IRQ channel. -/
theorem command_delivers_irq {s u : State} {op : Opcode} {cs : List Check} {r : Result} (hm : s.mode.accepting = true)
    (hp : s.port = .irq) (hi : s.irqEn = true) (hc : op.context = .irq) (hg : gateOf op = .irqEnabled)
    (hu : u.port = s.port) (hf : firstFault cs = none) :
    command op s cs (u, r) = .next { u with resIrq := u.resIrq ++ [r] } := by
  rw [command_completes_irq hm hp hi hc hg hf]
  exact congrArg _ (deliver_irq (hu.trans hp) r)

/-! ## The FIFO commands (40_fifo.md R150 to R160) -/

theorem advance_eq (n : Nat) (p : Half) (w : Bool) :
    advance n p w = (if p.toNat + 1 = n then 0 else p + 1, if p.toNat + 1 = n then !w else w) := by
  unfold advance
  split <;> rfl

theorem enqueue_of_full {s : State} (full : s.count = s.cfg.fifoDepth) (f : Frame) :
    enqueue s f = (s, { b := false }) :=
  if_pos (beq_iff_eq.mpr full)

/-- A push with the advance of TAIL written out. -/
theorem enqueue_of_room {s : State} (room : s.count ≠ s.cfg.fifoDepth) (f : Frame) :
    enqueue s f =
      ({ s with
          slot := s.slot.set s.tail.toNat f
          tail := if s.tail.toNat + 1 = s.cfg.fifoDepth then 0 else s.tail + 1
          twrap := if s.tail.toNat + 1 = s.cfg.fifoDepth then !s.twrap else s.twrap }, { b := true }) := by
  have pushes : enqueue s f = (s.pushFrame f, { b := true }) := if_neg fun full => room (beq_iff_eq.mp full)
  rw [pushes, State.pushFrame, advance_eq]

theorem dequeue_of_empty {s : State} (empty : s.count = 0) : dequeue s = (s, { v := false }) :=
  if_pos (beq_iff_eq.mpr empty)

/-- A pop with the advance of HEAD written out. -/
theorem dequeue_of_some {s : State} (notEmpty : s.count ≠ 0) :
    dequeue s =
      ({ s with
          head := if s.head.toNat + 1 = s.cfg.fifoDepth then 0 else s.head + 1
          hwrap := if s.head.toNat + 1 = s.cfg.fifoDepth then !s.hwrap else s.hwrap },
        { v := true, f := s.slotAt s.head.toNat }) := by
  have pops : dequeue s = (s.popHead, { v := true, f := s.slotAt s.head.toNat }) :=
    if_neg fun empty => notEmpty (beq_iff_eq.mp empty)
  rw [pops, State.popHead, advance_eq]

/-- Settles O20: the check of the frame, then the two cases of queueing it. -/
theorem fifoPushCompletes : Obligations.FifoPushCompletes := by
  intro f s hm hp hi
  rw [exec_fifoPush_eq]
  refine ⟨fun bad => ?badFrame, fun good full => ?full, fun good room => ?queued⟩
  case badFrame => exact command_faults_irq hm hp hi rfl rfl (by simp [needsFrame, bad])
  case full =>
    rw [enqueue_of_full full]
    exact command_delivers_irq hm hp hi rfl rfl rfl (by simp [needsFrame, good])
  case queued =>
    rw [enqueue_of_room room]
    exact command_delivers_irq hm hp hi rfl rfl rfl (by simp [needsFrame, good])

/-- Settles O21: the two cases of a pop, neither with a check before it. -/
theorem fifoPopCompletes : Obligations.FifoPopCompletes := by
  intro s hm hp
  rw [exec_fifoPop_eq]
  refine ⟨fun empty => ?empty, fun notEmpty => ?popped⟩
  case empty =>
    rw [dequeue_of_empty empty]
    exact command_delivers_main hm hp rfl rfl rfl
  case popped =>
    rw [dequeue_of_some notEmpty]
    exact command_delivers_main hm hp rfl rfl rfl

/-- Settles O22: each read delivers its value and has no effect. -/
theorem fifoStatusReadsComplete : Obligations.FifoStatusReadsComplete := by
  intro s hm hp
  have delivers {op : Opcode} (hc : op.context = .main) (r : Result) :
      command op s [] (s, r) = .next { s with resMain := s.resMain ++ [r] } := command_delivers_main hm hp hc rfl rfl
  exact ⟨delivers rfl _, delivers rfl _, delivers rfl _⟩

/-- Settles O23: the check of the mask, then the cleared FIFO. -/
theorem fifoFlushCompletes : Obligations.FifoFlushCompletes := by
  intro s hm hp
  rw [exec_fifoFlush_eq]
  refine ⟨fun unmasked => ?notMasked, fun masked => ?cleared⟩
  case notMasked => exact command_faults_main hm hp rfl rfl (by simp [needsMask, unmasked])
  case cleared =>
    refine ⟨_, command_delivers_main (u := s.flushFifo) hm hp rfl rfl (by simp [needsMask, masked]), ?_, rfl⟩
    exact flushFifo_count s

/-! ## The CAN commands (41_can.md) -/

/-- The check of the filter list fails exactly on a list that is too long or holds a bad entry (41_can.md R191). -/
theorem badFilterList_iff (s : State) (entries : List FilterEntry) : badFilterList s entries = true ↔
    s.cfg.numFilters < entries.length ∨ ∃ e ∈ entries, e.wellFormed = false := by
  simp [badFilterList]

theorem getElem?_installedFilters_of_entry {m k : Nat} {entries : List FilterEntry} {e : FilterEntry}
    (fits : entries.length ≤ m) (h : entries[k]? = some e) : (installedFilters m entries)[k]? = some e.toRec := by
  have hk : k < entries.length := (List.getElem?_eq_some_iff.mp h).1
  simp [installedFilters, List.getElem?_range (show k < m by omega), h]

theorem getElem?_installedFilters_of_le {m k : Nat} {entries : List FilterEntry} (beyond : entries.length ≤ k)
    (hk : k < m) : (installedFilters m entries)[k]? = some FilterRec.zero := by
  simp [installedFilters, List.getElem?_range hk, List.getElem?_eq_none beyond]

/-- Settles O24: the three checks in their order, then the filters slot by slot. -/
theorem canConfigCompletes : Obligations.CanConfigCompletes := by
  intro entries s hm hp
  rw [exec_canConfig_eq]
  refine ⟨fun bad => ?badList, fun fits good => ?goodList⟩
  case badList =>
    have bad := (badFilterList_iff s entries).mpr bad
    exact command_faults_main hm hp rfl rfl (by simp [bad])
  case goodList =>
    have good := (badFilterList_eq_false_iff s entries).mpr ⟨fits, good⟩
    refine ⟨fun unmasked => ?notMasked, fun masked done => ?twice, fun masked first => ?installed⟩
    case notMasked => exact command_faults_main hm hp rfl rfl (by simp [good, needsMask, unmasked])
    case twice => exact command_faults_main hm hp rfl rfl (by simp [good, needsMask, masked, done])
    case installed =>
      refine ⟨_, command_delivers_main hm hp rfl rfl (by simp [good, needsMask, masked, first]), rfl, ?_,
        fun k e h => getElem?_installedFilters_of_entry fits h,
        fun k beyond hk => getElem?_installedFilters_of_le beyond hk⟩
      simp [installedFilters]

/-- Settles O25: the two checks in their order, then the two cases of queueing the frame. -/
theorem canRxCompletes : Obligations.CanRxCompletes := by
  intro f s hm hp hi
  rw [exec_canRx_eq]
  refine ⟨fun bad => ?badFrame, fun good slot =>
    ⟨fun mismatch => ?mismatch, fun accepted full => ?full, fun accepted room => ?queued⟩⟩
  case badFrame => exact command_faults_irq hm hp hi rfl rfl (by rcases bad with bad | bad <;> simp [bad])
  case mismatch => exact command_faults_irq hm hp hi rfl rfl (by simp [good, slot, mismatch])
  case full =>
    rw [enqueue_of_full full]
    exact command_delivers_irq hm hp hi rfl rfl rfl (by simp [good, slot, accepted])
  case queued =>
    rw [enqueue_of_room room]
    exact command_delivers_irq hm hp hi rfl rfl rfl (by simp [good, slot, accepted])

/-- CAN.BUSERR on its port with IRQ_EN = 1 sets the latch (41_can.md R215). -/
theorem exec_canBuserr_completes {s : State} (hm : s.mode.accepting = true) (hp : s.port = .irq) (hi : s.irqEn = true)
    (code : Word) : exec (.canBuserr code) s =
      .next { s with errFlag := true, errCode := code, resIrq := s.resIrq ++ [{}] } := by
  rw [exec_canBuserr_eq]
  exact command_delivers_irq hm hp hi rfl rfl rfl rfl

/-- Settles O27: the frame's check and event, the command without effect, and the latch. -/
theorem canTransportCommandsComplete : Obligations.CanTransportCommandsComplete := by
  refine ⟨fun f s hm hp => ?transmit, fun slot s hm hp hi => ?txdone,
    fun code s hm hp hi => exec_canBuserr_completes hm hp hi code⟩
  case transmit =>
    rw [exec_canTransmit_eq]
    refine ⟨fun bad => command_faults_main hm hp rfl rfl (by simp [needsFrame, bad]), fun good => ?_⟩
    exact command_delivers_main (u := s.emit _) hm hp rfl rfl (by simp [needsFrame, good])
  case txdone =>
    rw [exec_canTxdone_eq]
    exact command_delivers_irq hm hp hi rfl rfl rfl rfl

/-- ERR.DRAIN of a set latch (41_can.md R217). -/
theorem exec_errDrain_of_set {s : State} (hm : s.mode.accepting = true) (hp : s.port = .main) (set : s.errFlag = true) :
    exec .errDrain s = .next
      { s with errFlag := false, out := s.out ++ [.diagErr s.errCode],
               resMain := s.resMain ++ [{ b := true, d := s.errCode }] } := by
  rw [exec_errDrain_eq, if_pos set, set]
  exact command_delivers_main hm hp rfl rfl rfl

/-- Settles O28: the drain of a set latch and of a clear one. -/
theorem errDrainCompletes : Obligations.ErrDrainCompletes := by
  refine fun s hm hp => ⟨exec_errDrain_of_set hm hp, fun clear => ?_⟩
  have result : Result.mk false s.errFlag s.errCode Frame.zero SigRec.zero GaugeRec.zero =
      { b := false, d := s.errCode } := by rw [clear]
  rw [exec_errDrain_eq, if_neg (by simp [clear]), result]
  exact command_delivers_main hm hp rfl rfl rfl

/-- Settles O48: the second code overwrites the first, and the drain finds one set latch. -/
theorem errorsCoalesce : Obligations.ErrorsCoalesce := by
  intro s t u v a b hm hi hp hst htu huv
  cases (exec_canBuserr_completes hm hp hi a).symm.trans hst
  cases (exec_canBuserr_completes (s := { s with errFlag := true, errCode := a, resIrq := s.resIrq ++ [{}] })
    hm hp hi b).symm.trans htu
  cases (exec_errDrain_of_set
    (s := { s with errFlag := true, errCode := b, resIrq := s.resIrq ++ [{}] ++ [{}], port := .main })
    hm rfl rfl).symm.trans huv
  exact ⟨rfl, rfl, rfl, rfl⟩

/-- Settles O29: the check of the index, then the record. -/
theorem telemReadCompletes : Obligations.TelemReadCompletes := by
  intro x s hm hp
  rw [exec_telemRead_eq]
  exact ⟨fun outside => command_faults_main hm hp rfl rfl (by simp [outside]),
    fun inside => command_delivers_main hm hp rfl rfl (by simp [inside])⟩

/-! ## The gauge commands (42_stepper.md) -/

/-- Past the last gauge the check of the index applies. -/
theorem needsGauge_of_le {s : State} {g : BitVec 4} (outside : s.cfg.gauges.length ≤ g.toNat) :
    needsGauge s g = ⟨true, .badGaugeIndex⟩ :=
  congrArg (Check.mk · _) (decide_eq_true outside)

theorem needsGauge_of_lt {s : State} {g : BitVec 4} (inside : g.toNat < s.cfg.gauges.length) :
    needsGauge s g = ⟨false, .badGaugeIndex⟩ :=
  congrArg (Check.mk · _) (decide_eq_false (Nat.not_le.mpr inside))

/-- Settles O30: the three checks in their order, then the two ways of zeroing. -/
theorem gaugeZeroCompletes : Obligations.GaugeZeroCompletes := by
  intro g s hm hp
  rw [exec_gaugeZero_eq]
  refine ⟨fun outside => ?badIndex, fun inside mode => ?notRunning, fun inside run zeroed => ?sequence,
    fun inside run unzeroed => ?zeroed⟩
  case badIndex => exact command_faults_main hm hp rfl rfl (by simp [needsGauge_of_le outside])
  case notRunning =>
    exact command_faults_main hm hp rfl rfl (by simp [needsGauge_of_lt inside, needsRun, mode])
  case sequence =>
    exact command_faults_main hm hp rfl rfl (by simp [needsGauge_of_lt inside, needsRun, run, zeroed])
  case zeroed =>
    have passed : firstFault [needsGauge s g, needsRun s,
        ⟨(s.gaugeAt g.toNat).zstate != .unzeroed, .gaugeSequence⟩] = none := by
      simp [needsGauge_of_lt inside, needsRun, run, unzeroed]
    refine ⟨fun atReference => ?_, fun hardstop runs => ?_⟩
    · rw [zeroGauge, if_pos atReference]
      exact command_delivers_main (u := s.putGauge _ _) hm hp rfl rfl passed
    · rw [zeroGauge, if_neg (by simp [hardstop, runs])]
      exact command_delivers_main (u := s.putGauge _ _) hm hp rfl rfl passed

/-- TargetOf as the expression of R244, read as a 16-bit position. -/
theorem ofNat_targetOf (gc : GaugeCfg) (p : Int) :
    BitVec.ofNat 16 (gc.targetOf p) = BitVec.ofInt 16 ((max 0 (min p 100) * gc.fullScale) / 100) := by
  have nonneg : 0 ≤ (max 0 (min p 100) * gc.fullScale) / 100 :=
    Int.ediv_nonneg (mul_nonneg (le_max_left _ _) (Int.natCast_nonneg _)) (by decide)
  rw [GaugeCfg.targetOf, clampInt_eq_max_min (by decide), ← BitVec.ofInt_natCast, Int.toNat_of_nonneg nonneg]

/-- Settles O31: the two checks in their order, then the target as R244 computes it. -/
theorem gaugeSettgtCompletes : Obligations.GaugeSettgtCompletes := by
  intro g p s hm hp
  rw [exec_gaugeSettgt_eq]
  refine ⟨fun outside => ?badIndex, fun inside notReady => ?sequence, fun inside ready => ?target⟩
  case badIndex => exact command_faults_main hm hp rfl rfl (by simp [needsGauge_of_le outside])
  case sequence =>
    exact command_faults_main hm hp rfl rfl (by simp [needsGauge_of_lt inside, needsReady, notReady])
  case target =>
    rw [retarget, ofNat_targetOf]
    exact command_delivers_main (u := s.putGauge _ _) hm hp rfl rfl
      (by simp [needsGauge_of_lt inside, needsReady, ready])

/-- Too early, a GAUGE.STEP does nothing to the gauge (42_stepper.md R252). -/
theorem stepGauge_of_early {gc : GaugeCfg} {clock : Word} {r : GaugeRec} (stepping : r.cur ≠ r.tgt)
    (early : elapsed clock r.lastT < gc.stepDelay) : stepGauge gc clock r = (r, false) := by
  simp [stepGauge, GaugeRec.idle, stepping, early]

/-- Idle, it keeps or releases the coils. -/
theorem stepGauge_of_idle {gc : GaugeCfg} {r : GaugeRec} (idle : r.cur = r.tgt) (clock : Word) :
    stepGauge gc clock r = ({ r with pins := if gc.hold then r.pins else 0 }, false) := by
  have stays : stepGauge gc clock r = (if gc.hold then r else { r with pins := 0 }, false) := if_pos (beq_iff_eq.mpr idle)
  rw [stays]
  cases gc.hold <;> rfl

/-- Else it moves, with the record after the move written out. -/
theorem stepGauge_of_eligible {gc : GaugeCfg} {clock : Word} {r : GaugeRec} {cur : Half} {phase : BitVec 3}
    (stepping : r.cur ≠ r.tgt) (waited : gc.stepDelay ≤ elapsed clock r.lastT)
    (hcur : cur = if r.cur.toNat < r.tgt.toNat then r.cur + 1 else r.cur - 1)
    (hphase : phase = BitVec.ofNat 3 ((if r.cur.toNat < r.tgt.toNat then r.phase.toNat + 1
      else r.phase.toNat + gc.phaseLen - 1) % gc.phaseLen)) :
    stepGauge gc clock r =
      ({ zstate := if cur = r.tgt ∧ r.zstate = .zeroing then .ready else r.zstate
         cur := cur
         tgt := r.tgt
         lastT := clock
         phase := phase
         pins := if cur = r.tgt ∧ gc.hold = false then 0 else gc.phases.getD phase.toNat 0 }, true) := by
  have moved : towardTarget gc r = { r with cur := cur, phase := phase } := by
    subst hcur hphase
    unfold towardTarget
    split <;> rfl
  have moves : stepGauge gc clock r = (settleStep gc clock (towardTarget gc r), true) := by
    simp [stepGauge, GaugeRec.idle, stepping, Nat.not_lt.mpr waited]
  rw [moves, moved]
  simp [settleStep, GaugeRec.idle, GaugeCfg.pattern]

/-- Settles O32: the three checks in their order, then the three cases of a step. -/
theorem gaugeStepCompletes : Obligations.GaugeStepCompletes := by
  rintro g s r gc hm hp rfl rfl
  rw [exec_gaugeStep_eq]
  refine ⟨fun outside => ?badIndex, fun inside mode => ?notRunning, fun inside run unzeroed => ?sequence,
    fun inside run zeroed => ?completes⟩
  case badIndex => exact command_faults_main hm hp rfl rfl (by simp [needsGauge_of_le outside])
  case notRunning => exact command_faults_main hm hp rfl rfl (by simp [needsGauge_of_lt inside, needsRun, mode])
  case sequence => exact command_faults_main hm hp rfl rfl (by simp [needsGauge_of_lt inside, needsRun, run, unzeroed])
  case completes =>
    have passed : firstFault [needsGauge s g, needsRun s,
        ⟨(s.gaugeAt g.toNat).zstate == .unzeroed, .gaugeSequence⟩] = none := by
      simp [needsGauge_of_lt inside, needsRun, run, zeroed]
    refine ⟨fun idle => ?_, fun stepping early => ?_, fun stepping waited cur phase hcur hphase => ?_⟩
    · rw [stepGauge_of_idle idle]
      exact command_delivers_main (u := s.putGauge _ _) hm hp rfl rfl passed
    · rw [stepGauge_of_early stepping early, putGauge_gaugeAt_self]
      exact command_delivers_main hm hp rfl rfl passed
    · rw [stepGauge_of_eligible stepping waited hcur hphase]
      exact command_delivers_main (u := s.putGauge _ _) hm hp rfl rfl passed

/-- A gauge without a signal, or whose signal was never written, has no percent to track (42_stepper.md R256). -/
theorem trackedPercent_eq_none {s : State} {gc : GaugeCfg}
    (h : gc.signal = none ∨ ∃ x, gc.signal = some x ∧ (s.sigAt x).valid = false) : trackedPercent s gc = none := by
  rcases h with h | ⟨x, h, unwritten⟩
  · simp [trackedPercent, h]
  · simp [trackedPercent, h, unwritten]

theorem trackedPercent_eq_some {s : State} {gc : GaugeCfg} {x : Nat} (h : gc.signal = some x)
    (written : (s.sigAt x).valid = true) : trackedPercent s gc = some (gc.map.eval (s.sigAt x).value).toInt := by
  simp [trackedPercent, h, written]

/-- Settles O33: the two checks in their order, then a gauge without a value and one with it. -/
theorem gaugeTrackCompletes : Obligations.GaugeTrackCompletes := by
  rintro g s gc hm hp rfl
  rw [exec_gaugeTrack_eq]
  refine ⟨fun outside => ?badIndex, fun inside notReady => ?sequence, fun inside ready => ?completes⟩
  case badIndex => exact command_faults_main hm hp rfl rfl (by simp [needsGauge_of_le outside])
  case sequence => exact command_faults_main hm hp rfl rfl (by simp [needsGauge_of_lt inside, needsReady, notReady])
  case completes =>
    have passed : firstFault [needsGauge s g, needsReady s g] = none := by
      simp [needsGauge_of_lt inside, needsReady, ready]
    refine ⟨fun nothing => ?_, fun x signal written => ?_⟩
    · rw [trackedPercent_eq_none nothing]
      exact command_delivers_main hm hp rfl rfl passed
    · rw [trackedPercent_eq_some signal written]
      dsimp only
      rw [retarget, ofNat_targetOf]
      exact command_delivers_main (u := s.putGauge _ _) hm hp rfl rfl passed

/-- Settles O34: the check of the index, then the record. -/
theorem gaugeReadCompletes : Obligations.GaugeReadCompletes := by
  intro g s hm hp
  rw [exec_gaugeRead_eq]
  exact ⟨fun outside => command_faults_main hm hp rfl rfl (by simp [needsGauge_of_le outside]),
    fun inside => command_delivers_main hm hp rfl rfl (by simp [needsGauge_of_lt inside])⟩

/-! ## The clock and interrupt-control commands (43_system.md) -/

/-- Settles O35: BOOT passes the one check, RUN fails it. -/
theorem clkInitCompletes : Obligations.ClkInitCompletes := by
  intro s hp
  have starts (boot : s.mode = .boot) (ok : Bool) : exec (.clkInit ok) s =
      .next { s with mode := if ok then .run else .halted, resMain := s.resMain ++ [{}] } := by
    rw [exec_clkInit_eq]
    exact command_delivers_main (accepting_of_boot boot) hp rfl rfl (by simp [boot])
  refine ⟨fun boot => starts boot true, fun boot => starts boot false, fun run ok => ?_⟩
  rw [exec_clkInit_eq]
  exact command_faults_main (accepting_of_run run) hp rfl rfl (by simp [run])

/-- Adding 1 to CLOCK is addition modulo 2^32 (43_system.md R293). -/
theorem clock_add_one (clock : Word) : clock + 1 = BitVec.ofNat 32 ((clock.toNat + 1) % 2 ^ 32) := by
  apply BitVec.eq_of_toNat_eq
  simp [BitVec.toNat_add]

/-- Settles O36: the read has no check, and in RUN the gate of the tick is open. -/
theorem clockCommandsComplete : Obligations.ClockCommandsComplete := by
  refine fun s => ⟨fun hm hp => ?read, fun run hp => ?tick⟩
  case read =>
    rw [exec_clkRead_eq]
    exact command_delivers_main hm hp rfl rfl rfl
  case tick =>
    have admitted : s.admits .clkTick = true :=
      (admits_iff s .clkTick).mpr ⟨accepting_of_run run, hp, by simp [State.gateOpen, gateOf, run]⟩
    rw [← clock_add_one, exec_clkTick_eq, command_completes admitted rfl]
    exact congrArg _ (deliver_irq (s := { s with clock := s.clock + 1 }) hp _)

/-- Settles O37: the check of MODE, which IRQ.DISABLE does not have. -/
theorem irqControlCompletes : Obligations.IrqControlCompletes := by
  intro s hp
  rw [exec_irqEnable_eq, exec_irqDisable_eq]
  exact ⟨fun boot => command_faults_main (accepting_of_boot boot) hp rfl rfl (by simp [needsRun, boot]),
    fun run => command_delivers_main (accepting_of_run run) hp rfl rfl (by simp [needsRun, run]),
    fun hm => command_delivers_main hm hp rfl rfl rfl⟩

end Sys2Proof.Machine
end

section
/-! What a command does not look at: the output history under every command (00_scope.md R10), and all but MODE, CLOCK, the
signals and the gauges under the gauge and telemetry commands (41_can.md R204, 42_stepper.md R259). -/

namespace Sys2Proof.Machine

/-! ## The handling of a command, condition by condition (60_exceptions.md R324) -/

/-- Where a command of opcode `op` gets to in `s` before its own checks. -/
theorem handling_cases (s : State) (op : Opcode) :
    s.mode.accepting = false ∨ (s.mode.accepting = true ∧ op.context ≠ s.port) ∨
      (s.port = op.context ∧ s.gateOpen op = false) ∨ s.admits op = true := by
  cases hm : s.mode.accepting with
  | false => exact .inl rfl
  | true =>
    by_cases hp : op.context = s.port
    · cases hg : s.gateOpen op with
      | false => exact .inr (.inr (.inl ⟨hp.symm, rfl⟩))
      | true => exact .inr (.inr (.inr ((admits_iff s op).mpr ⟨hm, hp.symm, hg⟩)))
    · exact .inr (.inl ⟨rfl, hp⟩)

theorem command_of_not_accepting {op : Opcode} {s : State} (hm : s.mode.accepting = false) (cs : List Check)
    (e : State × Result) : command op s cs e = .next s := by
  simp [command, hm]

theorem command_of_wrong_port {op : Opcode} {s : State} (hm : s.mode.accepting = true) (hp : op.context ≠ s.port)
    (cs : List Check) (e : State × Result) : command op s cs e = .next (s.takeFault .wrongContext op.code) := by
  simp [command, hm, hp]

theorem command_of_gate_closed {op : Opcode} {s : State} (hp : s.port = op.context) (hg : s.gateOpen op = false)
    (cs : List Check) (e : State × Result) : command op s cs e = .next s := by
  simp [command, hp, hg]

/-! ## The output history (00_scope.md R10) -/

/-- `run` appends at most one event to the history of `s` on its way to `t`, and does the same whatever the history holds. -/
def AppendsOnly (run : State → Host.Outcome State Fault Refusal) (s t : State) : Prop :=
  ∃ es : List OutEvent, es.length ≤ 1 ∧ t.out = s.out ++ es ∧
    ∀ o, run { s with out := o } = .next { t with out := o ++ es }

/-- A run that appends nothing. -/
theorem AppendsOnly.of_kept {run : State → Host.Outcome State Fault Refusal} {s t : State} (out : t.out = s.out)
    (same : ∀ o, run { s with out := o } = .next { t with out := o }) : AppendsOnly run s t :=
  ⟨[], by decide, by simp [out], by simpa using same⟩

theorem deliver_with_out (s : State) (r : Result) (o : List OutEvent) :
    State.deliver { s with out := o } r = { s.deliver r with out := o } := by
  unfold State.deliver
  dsimp only
  split <;> rfl

/-- A use of the shared handling whose checks do not read the history appends what its effect appends. -/
theorem command_appendsOnly {op : Opcode} {cs : State → List Check} {e : State → State × Result} {s t : State}
    (h : command op s (cs s) (e s) = .next t) (es : List OutEvent) (short : es.length ≤ 1)
    (checks : ∀ o, cs { s with out := o } = cs s)
    (effect : ∀ o, e { s with out := o } = ({ (e s).1 with out := o ++ es }, (e s).2)) :
    AppendsOnly (fun s => command op s (cs s) (e s)) s t := by
  rcases handling_cases s op with hm | ⟨hm, hp⟩ | ⟨hp, hg⟩ | admitted
  · cases (command_of_not_accepting hm _ _).symm.trans h
    exact .of_kept rfl fun o => command_of_not_accepting (s := { s with out := o }) hm _ _
  · cases (command_of_wrong_port hm hp _ _).symm.trans h
    exact .of_kept rfl fun o => command_of_wrong_port (s := { s with out := o }) hm hp _ _
  · cases (command_of_gate_closed hp hg _ _).symm.trans h
    exact .of_kept rfl fun o => command_of_gate_closed (s := { s with out := o }) hp hg _ _
  · cases passed : firstFault (cs s) with
    | some code =>
      cases (command_faults admitted passed).symm.trans h
      exact .of_kept rfl fun o =>
        command_faults (s := { s with out := o }) admitted ((congrArg firstFault (checks o)).trans passed)
    | none =>
      cases (command_completes admitted passed).symm.trans h
      have appended : (e s).1.out = s.out ++ es := congrArg (fun x => x.1.out) (effect s.out)
      refine ⟨es, short, (deliver_out _ _).trans appended, fun o => ?_⟩
      rw [← deliver_with_out]
      have passed' : firstFault (cs { s with out := o }) = none := (congrArg firstFault (checks o)).trans passed
      refine (command_completes (s := { s with out := o }) admitted passed').trans ?_
      rw [effect o]

/-- A use of the shared handling that has nothing to do with the history. -/
theorem command_keepsOut {op : Opcode} {cs : State → List Check} {e : State → State × Result} {s t : State}
    (h : command op s (cs s) (e s) = .next t) (checks : ∀ o, cs { s with out := o } = cs s)
    (effect : ∀ o, e { s with out := o } = ({ (e s).1 with out := o }, (e s).2)) :
    AppendsOnly (fun s => command op s (cs s) (e s)) s t :=
  command_appendsOnly h [] (by decide) checks (by simpa using effect)

theorem enqueue_with_out (s : State) (f : Frame) (o : List OutEvent) :
    enqueue { s with out := o } f = ({ (enqueue s f).1 with out := o }, (enqueue s f).2) := by
  rcases enqueue_cases s f with ⟨full, e⟩ | ⟨room, e⟩ <;> rw [e]
  · exact enqueue_of_full (s := { s with out := o }) full f
  · exact if_neg fun full => room (beq_iff_eq.mp full)

theorem dequeue_with_out (s : State) (o : List OutEvent) :
    dequeue { s with out := o } = ({ (dequeue s).1 with out := o }, (dequeue s).2) := by
  rcases dequeue_cases s with ⟨empty, e⟩ | ⟨notEmpty, e⟩ <;> rw [e]
  · exact dequeue_of_empty (s := { s with out := o }) empty
  · exact if_neg fun empty => notEmpty (beq_iff_eq.mp empty)

/-- Every command appends only, and at most one event: CAN.CONFIG, CAN.TRANSMIT and ERR.DRAIN are the ones that emit. -/
theorem exec_appendsOnly {i : Instr} {s t : State} (h : exec i s = .next t) : AppendsOnly (exec i) s t := by
  cases i with
  | canConfig entries =>
    exact command_appendsOnly h [.cfgOut entries.length entries] (Nat.le_refl 1) (fun _ => rfl) fun _ => rfl
  | canTransmit f =>
    exact command_appendsOnly h [.txReq f.id f.ext f.dlc f.payload] (Nat.le_refl 1) (fun _ => rfl) fun _ => rfl
  | errDrain =>
    cases set : s.errFlag with
    | true =>
      refine command_appendsOnly (cs := fun _ => []) h [.diagErr s.errCode] (Nat.le_refl 1) (fun _ => rfl) fun o => ?_
      dsimp only
      rw [if_pos set, if_pos set]
      rfl
    | false =>
      refine command_keepsOut (cs := fun _ => []) h (fun _ => rfl) fun o => ?_
      dsimp only
      rw [if_neg (by simp [set]), if_neg (by simp [set])]
  | fifoPop => exact command_keepsOut (cs := fun _ => []) h (fun _ => rfl) (dequeue_with_out s)
  | fifoPush f | canRx f => exact command_keepsOut h (fun _ => rfl) (enqueue_with_out s f)
  | canDispatch f => exact command_keepsOut h (fun _ => rfl) fun o => by rw [dispatchFrame_eq, dispatchFrame_eq]
  | gaugeTrack g =>
    refine command_keepsOut h (fun _ => rfl) fun o => ?_
    have percent : trackedPercent { s with out := o } (s.cfg.gaugeCfg g.toNat) =
      trackedPercent s (s.cfg.gaugeCfg g.toNat) := rfl
    dsimp only
    rw [percent]
    split <;> rfl
  | fifoEmpty | fifoFull | fifoCount | clkRead | irqDisable | canTxdone slot | canBuserr code | clkTick =>
    exact command_keepsOut (cs := fun _ => []) h (fun _ => rfl) fun _ => rfl
  | fifoFlush | telemRead sig | gaugeZero g | gaugeSettgt g p | gaugeStep g | gaugeRead g | clkInit ok | irqEnable =>
    exact command_keepsOut h (fun _ => rfl) fun _ => rfl

/-- Settles O59: no check and no effect reads the history, and an effect emits one event at most. -/
theorem outputHistoryWriteOnly : Obligations.OutputHistoryWriteOnly :=
  fun _ _ _ h => exec_appendsOnly h

/-! ## The gauge and telemetry commands (41_can.md R204, 42_stepper.md R259) -/

/-- `s'` with the part that the gauge and telemetry commands look at taken from `s`. -/
def State.withView (s' s : State) : State :=
  { s' with cfg := s.cfg, mode := s.mode, port := s.port, clock := s.clock, sig := s.sig, gauge := s.gauge }

/-- Two states hold the same signals and gauges in the same mode. -/
structure SeenAlike (t t' : State) : Prop where
  sig : t.sig = t'.sig
  gauge : t.gauge = t'.gauge
  mode : t.mode = t'.mode

/-- A never gated command that looks at the view alone ends alike, with the same result, in every state with that view. -/
theorem command_seesView {i : Instr} {op : Opcode} {cs : State → List Check} {e : State → State × Result}
    {s s' t t' : State} (hexec : ∀ s, exec i s = command op s (cs s) (e s)) (hg : gateOf op = .always)
    (h : exec i s = .next t) (h' : exec i (s'.withView s) = .next t')
    (checks : cs (s'.withView s) = cs s) (silent : SilentEffect s (e s).1)
    (silent' : SilentEffect (s'.withView s) (e (s'.withView s)).1) (result : (e (s'.withView s)).2 = (e s).2)
    (effect : SeenAlike (e s).1 (e (s'.withView s)).1) :
    SeenAlike t t' ∧ delivered s t = delivered (s'.withView s) t' := by
  rw [hexec] at h h'
  rcases handling_cases s op with hm | ⟨hm, hp⟩ | ⟨-, closed⟩ | admitted
  · cases (command_of_not_accepting hm _ _).symm.trans h
    cases (command_of_not_accepting (s := s'.withView s) hm _ _).symm.trans h'
    exact ⟨⟨rfl, rfl, rfl⟩, by rw [delivered_self, delivered_self]⟩
  · cases (command_of_wrong_port hm hp _ _).symm.trans h
    cases (command_of_wrong_port (s := s'.withView s) hm hp _ _).symm.trans h'
    exact ⟨⟨rfl, rfl, rfl⟩, by rw [delivered_takeFault, delivered_takeFault]⟩
  · simp [State.gateOpen, hg] at closed
  · have admitted' : (s'.withView s).admits op = true := by
      obtain ⟨hm, hp, -⟩ := (admits_iff s op).mp admitted
      exact (admits_iff _ op).mpr ⟨hm, hp, by simp [State.gateOpen, hg]⟩
    cases passed : firstFault (cs s) with
    | some code =>
      cases (command_faults admitted passed).symm.trans h
      cases (command_faults admitted' ((congrArg firstFault checks).trans passed)).symm.trans h'
      exact ⟨⟨rfl, rfl, rfl⟩, by rw [delivered_takeFault, delivered_takeFault]⟩
    | none =>
      cases (command_completes admitted passed).symm.trans h
      cases (command_completes admitted' ((congrArg firstFault checks).trans passed)).symm.trans h'
      refine ⟨⟨?_, ?_, ?_⟩, by rw [silent.delivered, silent'.delivered, result]⟩
      · rw [deliver_sig, deliver_sig, effect.sig]
      · rw [deliver_gauge, deliver_gauge, effect.gauge]
      · rw [deliver_mode, deliver_mode, effect.mode]

/-- The gauge commands, CAN.DISPATCH and TELEM.READ look at the view alone. -/
theorem exec_seesView {i : Instr} {s s' t t' : State}
    (hi : usesGauge i.opcode = true ∨ i.opcode = .canDispatch ∨ i.opcode = .telemRead)
    (h : exec i s = .next t) (h' : exec i (s'.withView s) = .next t') :
    SeenAlike t t' ∧ delivered s t = delivered (s'.withView s) t' := by
  cases i with
  | gaugeZero g =>
    exact command_seesView (exec_gaugeZero_eq g) rfl h h' rfl (putGauge_silent s _ _) (putGauge_silent _ _ _) rfl
      ⟨rfl, rfl, rfl⟩
  | gaugeSettgt g p =>
    exact command_seesView (exec_gaugeSettgt_eq g p) rfl h h' rfl (putGauge_silent s _ _) (putGauge_silent _ _ _) rfl
      ⟨rfl, rfl, rfl⟩
  | gaugeStep g =>
    exact command_seesView (exec_gaugeStep_eq g) rfl h h' rfl (putGauge_silent s _ _) (putGauge_silent _ _ _) rfl
      ⟨rfl, rfl, rfl⟩
  | gaugeRead g => exact command_seesView (exec_gaugeRead_eq g) rfl h h' rfl (.refl s) (.refl _) rfl ⟨rfl, rfl, rfl⟩
  | telemRead x => exact command_seesView (exec_telemRead_eq x) rfl h h' rfl (.refl s) (.refl _) rfl ⟨rfl, rfl, rfl⟩
  | gaugeTrack g =>
    have percent : trackedPercent (s'.withView s) ((s'.withView s).cfg.gaugeCfg g.toNat) =
      trackedPercent s (s.cfg.gaugeCfg g.toNat) := rfl
    refine command_seesView (exec_gaugeTrack_eq g) rfl h h' rfl ?silent ?silent' ?result ?effect
    case silent =>
      split
      · exact .refl s
      · exact putGauge_silent s _ _
    case silent' =>
      split
      · exact .refl _
      · exact putGauge_silent _ _ _
    case result =>
      rw [percent]
      split <;> rfl
    case effect =>
      rw [percent]
      split <;> exact ⟨rfl, rfl, rfl⟩
  | canDispatch f =>
    refine command_seesView (exec_canDispatch_eq f) rfl h h' rfl (dispatchFrame_delivers s f).1
      (dispatchFrame_delivers _ f).1 ?_ ?_
    · rw [dispatchFrame_eq, dispatchFrame_eq]
      rfl
    · rw [dispatchFrame_eq, dispatchFrame_eq]
      exact ⟨rfl, rfl, rfl⟩
  | fifoPop | fifoEmpty | fifoFull | fifoFlush | fifoCount | canConfig entries | canTransmit f | errDrain | clkInit ok
  | clkRead | irqEnable | irqDisable | fifoPush f | canRx f | canTxdone slot | canBuserr code | clkTick =>
    simp [usesGauge, Instr.opcode] at hi

/-- Settles O56: the second state is the first one's view in other surroundings. -/
theorem gaugeCommandsSeeNoFifo : Obligations.GaugeCommandsSeeNoFifo := by
  intro i s s' t t' hi hcfg hmode hport hclock hsig hgauge h h'
  have view : s' = s'.withView s := by
    unfold State.withView
    rw [hcfg, hmode, hport, hclock, hsig, hgauge]
  rw [view] at h' ⊢
  obtain ⟨⟨sig, gauge, mode⟩, results⟩ := exec_seesView hi h h'
  exact ⟨sig, gauge, mode, results⟩

end Sys2Proof.Machine
end

section
/-! The pseudo-commands (30_encoding.md R128). -/

namespace Sys2Proof.Machine

/-- A task list with one command for each gauge holds, at place `g`, the command of gauge `g`. -/
theorem getElem?_map_gaugeIndices (c : Config) (i : BitVec 4 → Instr) {g : Nat} (hg : g < c.gauges.length) :
    ((gaugeIndices c).map fun g => Task.issue (i g))[g]? = some (.issue (i (BitVec.ofNat 4 g))) := by
  simp [gaugeIndices, Config.numGauges, List.getElem?_range hg]

theorem length_gaugeIndices (c : Config) : (gaugeIndices c).length = c.gauges.length := by
  simp [gaugeIndices, Config.numGauges]

/-- Settles O60: the expansions as they are defined, with one task per gauge index in STEP_ALL and TRACK_ALL. -/
theorem pseudoCommandsExpand : Obligations.PseudoCommandsExpand := by
  intro c r rest
  refine ⟨rfl, rfl, fun _ => rfl, fun popped => ⟨?_, ?_⟩, fun empty => ⟨?_, ?_⟩, ?_, ?_, fun g hg =>
    ⟨getElem?_map_gaugeIndices c .gaugeStep hg, getElem?_map_gaugeIndices c .gaugeTrack hg⟩, rfl⟩
  · exact if_pos popped
  · exact if_pos popped
  · exact if_neg (by simp [empty])
  · exact if_neg (by simp [empty])
  · exact (List.length_map _).trans (length_gaugeIndices c)
  · exact (List.length_map _).trans (length_gaugeIndices c)

end Sys2Proof.Machine
end
